-- ==== Sys2Proof/Word.lean ====
section
/-! DEFINITION. The words of the hardware: nibbles, 16-bit blocks, and the 2×2 nibble matrix the spec calls a state
(00_scope.md R5, R7, R8). Every quantity is an unsigned bit vector (R7, R72). -/

namespace Sys2Proof

/-- A nibble, the field element: a 4-bit vector, so a value outside 0..15 cannot be built (R5 `NIBBLE_W`, R7, U1). -/
abbrev Nibble := BitVec 4

/-- A 16-bit word at the command port: a plaintext or ciphertext block (R5 `BLOCK_W`, R7). -/
abbrev Block := BitVec 16

/-- A 16-bit key (R5 `KEY_W`, R7). -/
abbrev Key := BitVec 16

/-- The sixteen wires that carry a cipher state between units and in `RK[0..2]` (R53, R91). -/
abbrev StateBus := BitVec 16

/-- A command word, format `CMD18` (R46). -/
abbrev CommandWord := BitVec 18

/-- A response word, format `RSP18` (R48). -/
abbrev ResponseWord := BitVec 18

/-- The source's State: "a 2×2 matrix of nibbles, indexed [row][col]" (R7, R8, R91). Field `s10` is row 1, column 0. -/
structure CipherState where
  s00 : Nibble
  s10 : Nibble
  s01 : Nibble
  s11 : Nibble
deriving DecidableEq, Repr

/-- The round key schedule: exactly three states `rkey[0..2]` (R5 `NRK`, R8, R11). -/
structure RoundKeys where
  k0 : CipherState
  k1 : CipherState
  k2 : CipherState
deriving DecidableEq, Repr

end Sys2Proof
end

