-- ==== Sys2Proof/Config.lean ====
section
/-! DEFINITION. What an implementation fixes and what the spec leaves open (00_scope.md R6, 93_implementation_defined.md):
the type of the open parameters and the constants about which nothing is known. The table the machine is
configured with stands in Machine/Tables.lean. -/

namespace Sys2Proof

/-- A substitution table: 16 entries of 4 bits, addressed by a nibble (R6, R30). -/
abbrev SBoxTable := Vector Nibble 16

/-- The four operation codes of a command word (R47), by name. -/
inductive CommandOp where
  | reserved
  | setkey
  | enc
  | dec
deriving DecidableEq, Repr

/-- The open parameters of R6. A value of this type is raw: `Config.wf` says whether it is admissible. -/
structure Config where
  /-- `SBOX`: must be a bijection (R6, R81). -/
  sbox : SBoxTable
  /-- `LATENCY` per command: a function of the operation alone, so it cannot depend on key or block (R6, R181).
  No rule reads it (R183). -/
  latency : CommandOp → Nat
  /-- `LANES`: positive, without effect on any result (R6, R166). -/
  lanes : Nat

/-- The machine's `LATENCY`: no source gives a value (R183, N5), so nothing is known of it. UNVERIFIED; safe: no
proof can rest on a value of it. Log entry 6. -/
opaque Config.freeLatency : CommandOp → Nat

/-- Free values: the words that `RK[0..2]` hold after a reset event, which the spec leaves unspecified (R21, R172,
R173, U6 "any value"). Applied to the state's counter `freeIndex`, fresh each time. Safe: nothing is known of any of
them. Log entry 3. -/
opaque Config.freeWord : Nat → BitVec 16

end Sys2Proof
end

