-- ==== Sys2Proof/Syntax.lean ====
section
/-! DEFINITION. The ports on which bits arrive, the words on them, and the instruction set: one constructor per row of
spec/opcode_table.json (00_scope.md R2, 30_encoding.md R45 to R55). -/

namespace Sys2Proof

/-- Where bits arrive (R45): the command port, or the operand bus of one unit operation. Two unit operations may share
a pattern; "they are told apart by which unit the bus belongs to, not by bits" (R54). `nibbleSub` carries both `NSUB`
and `INSUB`: one unit with a select bit. -/
inductive Port where
  | command
  | gfadd
  | gfmul
  | sbox
  | isbox
  | b2s
  | s2b
  | nibbleSub
  | shrow
  | mixcol
  | keyadd
  | keystep
  | keyexp
  | encblk
  | decblk
deriving DecidableEq, Repr

/-- The number of wires of each port: `CMD18` (R46) and the unit formats `U4` to `U64` (R54). -/
@[reducible] def Port.width : Port → Nat
  | .command => 18
  | .gfadd => 8
  | .gfmul => 8
  | .sbox => 4
  | .isbox => 4
  | .b2s => 16
  | .s2b => 16
  | .nibbleSub => 17
  | .shrow => 16
  | .mixcol => 16
  | .keyadd => 32
  | .keystep => 20
  | .keyexp => 16
  | .encblk => 64
  | .decblk => 64

/-- A word on a port: exactly as many bits as the port has wires, so an over-wide word cannot be expressed (R34, R155,
U12). -/
structure BusWord where
  port : Port
  bits : BitVec port.width
deriving DecidableEq, Repr

/-- The instruction set of R2: the four rows of the command format, then the fifteen unit operations. Every value of
every operand is legal (R50, R54), so every term is a well-formed instruction. -/
inductive Instr where
  /-- op `00`: raises `E_ILLEGAL` whatever `data` is (R50, R152). -/
  | reserved (data : BitVec 16)
  /-- Load a key (R129). -/
  | setkey (data : Key)
  /-- Encrypt one block (R130). -/
  | enc (data : Block)
  /-- Decrypt one block (R131). -/
  | dec (data : Block)
  /-- Field addition (R66). -/
  | gfadd (a b : Nibble)
  /-- Field multiplication (R67). -/
  | gfmul (a b : Nibble)
  /-- Forward substitution (R81). -/
  | sbox (n : Nibble)
  /-- Inverse substitution (R84). -/
  | isbox (n : Nibble)
  /-- Block to state (R92). -/
  | b2s (x : Block)
  /-- State to block (R93). -/
  | s2b (s : StateBus)
  /-- Forward nibble substitution, select bit 0 (R99). -/
  | nsub (s : StateBus)
  /-- Inverse nibble substitution, select bit 1 (R100). -/
  | insub (s : StateBus)
  /-- Row rotation (R102). -/
  | shrow (s : StateBus)
  /-- Column mixing (R104). -/
  | mixcol (s : StateBus)
  /-- Round-key addition (R107). -/
  | keyadd (s k : StateBus)
  /-- One round of key derivation, operands in the order of the call `KEYSTEP(P, rc)` (R60, R117). -/
  | keystep (p : StateBus) (rc : Nibble)
  /-- The whole key schedule (R118). -/
  | keyexp (k : Key)
  /-- The encryption datapath (R126). -/
  | encblk (x : Block) (k0 k1 k2 : StateBus)
  /-- The decryption datapath (R127). -/
  | decblk (x : Block) (k0 k1 k2 : StateBus)
deriving DecidableEq, Repr

/-- The port an instruction arrives on (R45, R54). -/
def Instr.port : Instr → Port
  | .reserved _ => .command
  | .setkey _ => .command
  | .enc _ => .command
  | .dec _ => .command
  | .gfadd _ _ => .gfadd
  | .gfmul _ _ => .gfmul
  | .sbox _ => .sbox
  | .isbox _ => .isbox
  | .b2s _ => .b2s
  | .s2b _ => .s2b
  | .nsub _ => .nibbleSub
  | .insub _ => .nibbleSub
  | .shrow _ => .shrow
  | .mixcol _ => .mixcol
  | .keyadd _ _ => .keyadd
  | .keystep _ _ => .keystep
  | .keyexp _ => .keyexp
  | .encblk _ _ _ _ => .encblk
  | .decblk _ _ _ _ => .decblk

end Sys2Proof
end

