-- ==== Sys2Proof/WellFormed.lean ====
section
/-! DEFINITION. What is checked before the machine sees it: a configuration (00_scope.md R6, 41_sbox.md R81) and a raw
number offered to a port (30_encoding.md R46, R54, 60_exceptions.md R155). An instruction has no check of its own: "every value of
every operand bus is legal" (R54) and every `data` is legal (R50), so each term of `Instr` is well-formed. -/

namespace Sys2Proof

/-- R81: "every nibble value occurs exactly once among SBOX[0] to SBOX[15]". -/
def SBoxTable.isBijection (t : SBoxTable) : Bool :=
  (List.finRange 16).all fun v => t.toList.count (BitVec.ofNat 4 v.val) == 1

/-- R6: `LANES` is a positive natural number. -/
def Config.hasLanes (c : Config) : Bool := 0 < c.lanes

/-- The constraints of R6 on the open parameters. -/
def Config.wf (c : Config) : Bool := c.sbox.isBijection && c.hasLanes

/-- Why a configuration is refused. -/
inductive ConfigError where
  /-- `SBOX` is not a bijection on 0..15 (R6, R81, U2). -/
  | sboxNotBijection
  /-- `LANES` is zero (R6). -/
  | lanesNotPositive
deriving DecidableEq, Repr

/-- A configuration with the proof that it is admissible: a machine is built from nothing else, so a table that is not
a bijection is refused before any step (R81). -/
structure AdmissibleConfig where
  toConfig : Config
  ok : toConfig.wf = true

/-- The forward table of an admissible configuration, the parameter `SBOX` (R6, R81). -/
def AdmissibleConfig.sbox (c : AdmissibleConfig) : SBoxTable := c.toConfig.sbox

/-- Admit a configuration, or refuse it by name (R6, R81). -/
def Config.checked (c : Config) : Except ConfigError AdmissibleConfig :=
  if h : c.wf = true then .ok ⟨c, h⟩
  else if c.sbox.isBijection then .error .lanesNotPositive
  else .error .sboxNotBijection

/-- Does a raw number fit the wires of a port (R46, R54)? One that does not cannot be driven (R34, R155, U12). -/
def Port.fits (p : Port) (w : Nat) : Bool := w < 2 ^ p.width

end Sys2Proof
end

