-- ==== Sys2Proof/Decode.lean ====
section
/-! DEFINITION. Decoding and encoding (30_encoding.md R45 to R55, R62). On each port every word has a meaning, so decoding a
word is total; a raw number wider than its port is rejected by name. The encoder is written from the same tables. -/

namespace Sys2Proof

/-- The command level, R62: `op = w[17:16]`, `data = w[15:0]`; the row of R47 is selected by `op` and no other bit is
examined. -/
def decodeCommand (w : CommandWord) : Instr :=
  let op := w.extractLsb' 16 2
  let data := w.extractLsb' 0 16
  if op = 0b00#2 then .reserved data
  else if op = 0b01#2 then .setkey data
  else if op = 0b10#2 then .enc data
  else .dec data

/-- The nibble substitution unit, R54: `{inverse, S[15:0]}`; its `inverse` input selects between two functions. -/
def decodeNibbleSub (w : BitVec 17) : Instr :=
  if w.extractLsb' 16 1 = 0b0#1 then .nsub (w.extractLsb' 0 16) else .insub (w.extractLsb' 0 16)

/-- The meaning of a word on a port: the operands are taken from the bus by position only (R45, R54, R55). -/
def decode : BusWord → Instr
  | ⟨.command, w⟩ => decodeCommand w
  | ⟨.gfadd, w⟩ => .gfadd (w.extractLsb' 4 4) (w.extractLsb' 0 4)
  | ⟨.gfmul, w⟩ => .gfmul (w.extractLsb' 4 4) (w.extractLsb' 0 4)
  | ⟨.sbox, w⟩ => .sbox w
  | ⟨.isbox, w⟩ => .isbox w
  | ⟨.b2s, w⟩ => .b2s w
  | ⟨.s2b, w⟩ => .s2b w
  | ⟨.nibbleSub, w⟩ => decodeNibbleSub w
  | ⟨.shrow, w⟩ => .shrow w
  | ⟨.mixcol, w⟩ => .mixcol w
  | ⟨.keyadd, w⟩ => .keyadd (w.extractLsb' 16 16) (w.extractLsb' 0 16)
  | ⟨.keystep, w⟩ => .keystep (w.extractLsb' 0 16) (w.extractLsb' 16 4)
  | ⟨.keyexp, w⟩ => .keyexp w
  | ⟨.encblk, w⟩ => .encblk (w.extractLsb' 48 16) (w.extractLsb' 32 16) (w.extractLsb' 16 16) (w.extractLsb' 0 16)
  | ⟨.decblk, w⟩ => .decblk (w.extractLsb' 48 16) (w.extractLsb' 32 16) (w.extractLsb' 16 16) (w.extractLsb' 0 16)

/-- The word of an instruction, most significant field first, as the tables of R46, R47 and R54 print it. -/
def encode : Instr → BusWord
  | .reserved data => ⟨.command, (0b00#2 ++ data : BitVec 18)⟩
  | .setkey data => ⟨.command, (0b01#2 ++ data : BitVec 18)⟩
  | .enc data => ⟨.command, (0b10#2 ++ data : BitVec 18)⟩
  | .dec data => ⟨.command, (0b11#2 ++ data : BitVec 18)⟩
  | .gfadd a b => ⟨.gfadd, (a ++ b : BitVec 8)⟩
  | .gfmul a b => ⟨.gfmul, (a ++ b : BitVec 8)⟩
  | .sbox n => ⟨.sbox, n⟩
  | .isbox n => ⟨.isbox, n⟩
  | .b2s x => ⟨.b2s, x⟩
  | .s2b s => ⟨.s2b, s⟩
  | .nsub s => ⟨.nibbleSub, (0b0#1 ++ s : BitVec 17)⟩
  | .insub s => ⟨.nibbleSub, (0b1#1 ++ s : BitVec 17)⟩
  | .shrow s => ⟨.shrow, s⟩
  | .mixcol s => ⟨.mixcol, s⟩
  | .keyadd s k => ⟨.keyadd, (s ++ k : BitVec 32)⟩
  | .keystep p rc => ⟨.keystep, (rc ++ p : BitVec 20)⟩
  | .keyexp k => ⟨.keyexp, k⟩
  | .encblk x k0 k1 k2 => ⟨.encblk, (x ++ k0 ++ k1 ++ k2 : BitVec 64)⟩
  | .decblk x k0 k1 k2 => ⟨.decblk, (x ++ k0 ++ k1 ++ k2 : BitVec 64)⟩

/-- Why a raw number is no word of a port. -/
inductive DecodeError where
  /-- The number has more bits than the port has wires (R34, R155, U12). Safe: nothing is driven. -/
  | overWide (port : Port)
deriving DecidableEq, Repr

/-- A raw number as a word of a port, or its rejection by name. -/
def rawWord (p : Port) (w : Nat) : Except DecodeError BusWord :=
  if p.fits w then .ok ⟨p, BitVec.ofNat p.width w⟩ else .error (.overWide p)

/-- Total decoding of any number on any port. -/
def decodeRaw (p : Port) (w : Nat) : Except DecodeError Instr := (rawWord p w).map decode

/-- The port on which a bare number of `nbits` bits is read. DESIGN CHOICE (log entry 11): the bits of a unit word do
not say which unit they belong to (R54), and rows of one width share their patterns, so for each width the port of the
FIRST row of that width in spec/opcode_table.json is taken; `nbits` may be the row's own width or that width in whole
bytes. A number of 24 bits is a command word when it fits 18 bits, and else a word of the 20-wire bus. -/
def tablePort (nbits w : Nat) : Option Port :=
  match nbits with
  | 18 => some .command
  | 24 => some (if Port.command.fits w then .command else .keystep)
  | 8 => some .gfadd
  | 4 => some .sbox
  | 16 => some .b2s
  | 17 => some .nibbleSub
  | 32 => some .keyadd
  | 20 => some .keystep
  | 64 => some .encblk
  | _ => none

/-- The word that a bare number of `nbits` bits stands for, if it fits (log entry 11). -/
def tableWord (nbits w : Nat) : Option BusWord :=
  match tablePort nbits w with
  | none => none
  | some p => (rawWord p w).toOption

/-- What the decoder reads from a bare number, bit 0 the least significant. -/
def decodeTableWord (nbits w : Nat) : Option Instr := (tableWord nbits w).map decode

end Sys2Proof
end

