-- ==== Sys2Proof/Machine/State.lean ====
section
/-! DEFINITION. The state of the machine as plain data (10_state.md), the moves of the host (70_reset_and_hazards.md R186),
the outcomes by name, and the state right after reset. -/

namespace Sys2Proof.Machine

/-- The two exceptions of R151. -/
inductive Exc where
  /-- `E_ILLEGAL`: a command word with the reserved op (R152). -/
  | illegal
  /-- `E_NOKEY`: `ENC` or `DEC` with `KEY_VALID = 0` (R153). -/
  | noKey
deriving DecidableEq, Repr

/-- The three status codes a response can carry (R49); the fourth is never produced, so it has no constructor (U8). -/
inductive Status where
  | ok
  | illegal
  | noKey
deriving DecidableEq, Repr

/-- A value on the result bus of a unit, with its kind as the "result" column of R54 gives it. -/
inductive UnitResult where
  | nibble (n : Nibble)
  | state (s : StateBus)
  | block (x : Block)
  /-- `{K0, K1, K2}`, 48 bits. -/
  | schedule (ks : BitVec 48)
deriving DecidableEq, Repr

/-- One move at the edge of the CORE (R186). -/
inductive Move where
  /-- The host applies reset (R171): no encoding, no response. -/
  | reset
  /-- A word is driven on a port: a command word by the host (R186), or a unit's operand bus by the model's test bench
  (R45; log entry 1). -/
  | drive (w : BusWord)
deriving DecidableEq, Repr

/-- What stops the machine: nothing. No instruction of this hardware ends in a fault: the two exceptions are error
responses after which the CORE goes on (R154, R156, R157). Safe: there is no constructor to raise (log entry 13). -/
inductive Fault
deriving DecidableEq, Repr

/-- What the machine refuses. -/
inductive Refusal where
  /-- An instruction without a meaning, rejected by name in `exec`. No arm raises it: every instruction has its
  meaning. Safe: nothing is claimed of a refused instruction. -/
  | notModelled (mnemonic : String)
deriving DecidableEq, Repr

/-- The state. The first four fields are the whole architectural state of the CORE, 49 bits (R10). The next two are the
two sides of its port held as data (R184, R186). The last two are the model's own. -/
structure State where
  /-- `RK[0]`, a state on the state bus (R10, R11). -/
  rk0 : StateBus
  /-- `RK[1]` (R10, R11). -/
  rk1 : StateBus
  /-- `RK[2]` (R10, R11). -/
  rk2 : StateBus
  /-- `KEY_VALID` (R10, R13). -/
  keyValid : Bool
  /-- The moves still to come, oldest first (R186; log entry 8). -/
  pending : List Move
  /-- The responses produced so far, oldest first: all that can be observed of a run (R38, R184; log entry 9). -/
  responses : List ResponseWord
  /-- The MODEL's own: the last value on a unit's result bus, if any unit was driven (R54; log entry 1). -/
  unitOut : Option UnitResult
  /-- The MODEL's own: the index of the next free value (log entry 4). -/
  freeIndex : Nat
deriving DecidableEq, Repr

/-- The machine right after reset (R21, R172): `KEY_VALID = 0`. The three round-key registers are unspecified there;
they hold the filler 0, which no claim may mention (DESIGN CHOICE, unsafe; log entry 2). Nothing is pending, nothing
has been answered (DESIGN CHOICE, safe; log entries 1, 4, 8, 9). -/
def State.reset : State where
  rk0 := 0
  rk1 := 0
  rk2 := 0
  keyValid := false
  pending := []
  responses := []
  unitOut := none
  freeIndex := 0

end Sys2Proof.Machine
end

