-- ==== Sys2Proof/Machine/Flags.lean ====
section
/-! DEFINITION. The one flag of the hardware, `KEY_VALID` (10_state.md R13). There are no condition codes, and no unit operation
produces a flag (R18); there is no control register (R19). -/

namespace Sys2Proof.Machine

/-- `KEY_VALID <- 1`, what every `SETKEY` does (R13, R129). -/
def State.setKeyValid (s : State) : State := { s with keyValid := true }

/-- `KEY_VALID <- 0`, what only reset does (R13, R172). -/
def State.clearKeyValid (s : State) : State := { s with keyValid := false }

end Sys2Proof.Machine
end

