-- ==== Sys2Proof/Machine/Operands.lean ====
section
/-! DEFINITION. Operand forms: how the sixteen wires of a state bus are the four nibbles of a state (42_state_converter.md R91,
20_memory.md R32, R33), and how round keys travel on buses (30_encoding.md R53, R54). -/

namespace Sys2Proof

/-- The state a bus carries (R91): column 0 in the high byte, row 0 in the high nibble of each byte. -/
def CipherState.ofBus (w : StateBus) : CipherState where
  s00 := w.extractLsb' 12 4
  s10 := w.extractLsb' 8 4
  s01 := w.extractLsb' 4 4
  s11 := w.extractLsb' 0 4

/-- The bus that carries a state: `S = {s[0][0], s[1][0], s[0][1], s[1][1]}` (R91). -/
def CipherState.toBus (s : CipherState) : StateBus := s.s00 ++ s.s10 ++ s.s01 ++ s.s11

/-- Three round keys taken from three state buses `K0`, `K1`, `K2` (R53, R54). -/
def RoundKeys.ofBuses (w0 w1 w2 : StateBus) : RoundKeys where
  k0 := .ofBus w0
  k1 := .ofBus w1
  k2 := .ofBus w2

/-- The result bus of `KEYEXP`: `{K0, K1, K2}`, 48 bits (R54, R118). -/
def RoundKeys.toBus (ks : RoundKeys) : BitVec 48 := ks.k0.toBus ++ ks.k1.toBus ++ ks.k2.toBus

end Sys2Proof
end

