-- ==== Sys2Proof/Machine/Ops.lean ====
section
/-! DEFINITION. The named operations over the state: the round-key registers, the response, taking an exception, the result bus
of a unit, the reset event, and taking the host's next move. -/

namespace Sys2Proof.Machine

/-- The bits of a status (R49). -/
def Status.code : Status → BitVec 2
  | .ok => 0b00
  | .illegal => 0b01
  | .noKey => 0b10

/-- The response word `{status, data}` (R48). -/
def responseWord (st : Status) (data : BitVec 16) : ResponseWord := st.code ++ data

/-- `respond(status, data)`: the one response word of a command (R7, R48), after all earlier ones (R38). -/
def State.respond (s : State) (st : Status) (data : BitVec 16) : State :=
  { s with responses := s.responses ++ [responseWord st data] }

/-- The status an exception is reported with (R151). -/
def Exc.status : Exc → Status
  | .illegal => .illegal
  | .noKey => .noKey

/-- TAKING AN EXCEPTION, `raise E` (R156): the response `respond(E, 0x0000)`, and nothing else: nothing is saved, no mode
or mask changes, control goes nowhere. There is no return from it (R157): nothing to restore, and the next command is
judged on its own. -/
def State.raise (s : State) (e : Exc) : State := s.respond e.status 0x0000#16

/-- The schedule the round-key registers hold, as `ENC` and `DEC` read it (R11, R12). -/
def State.roundKeys (s : State) : RoundKeys := .ofBuses s.rk0 s.rk1 s.rk2

/-- `RK[0] <- K0 ; RK[1] <- K1 ; RK[2] <- K2`, all three in one step (R12, R35, R129). -/
def State.writeRoundKeys (s : State) (ks : RoundKeys) : State :=
  { s with rk0 := ks.k0.toBus, rk1 := ks.k1.toBus, rk2 := ks.k2.toBus }

/-- The value on a unit's result bus (R54), kept where the model's test bench sees it; no state of 10_state.md is
written (R65, R80, R90, R98, R116, R126, R127; log entry 1). -/
def State.driveResult (s : State) (r : UnitResult) : State := { s with unitOut := some r }

/-- `RK[0..2]` take values nobody knows (R21, R172, R173; log entry 3). -/
def State.forgetRoundKeys (s : State) : State :=
  { s with
    rk0 := Config.freeWord s.freeIndex
    rk1 := Config.freeWord (s.freeIndex + 1)
    rk2 := Config.freeWord (s.freeIndex + 2)
    freeIndex := s.freeIndex + 3 }

/-- The reset event (R171 to R173): `KEY_VALID = 0`, `RK[0..2]` unspecified, no response. The moves still to come and
the responses already produced are the host's, not the CORE's, and stay. -/
def State.applyReset (s : State) : State := s.forgetRoundKeys.clearKeyValid

/-- Take the host's next move, if it makes one (R186). -/
def State.takeMove (s : State) : Option (Move × State) :=
  match s.pending with
  | [] => none
  | m :: rest => some (m, { s with pending := rest })

/-- Put a move before all others, so that it is the next one. -/
def State.pushMove (s : State) (m : Move) : State := { s with pending := m :: s.pending }

end Sys2Proof.Machine
end

