-- ==== Sys2Proof/Machine/StateConverter.lean ====
section
/-! DEFINITION. The State Representation unit: `B2S`, `S2B` (42_state_converter.md). -/

namespace Sys2Proof.Machine

/-- `B2S(x)`: block or key to state (R92). -/
def b2s (x : Block) : CipherState where
  s00 := x.extractLsb' 12 4
  s10 := x.extractLsb' 8 4
  s01 := x.extractLsb' 4 4
  s11 := x.extractLsb' 0 4

/-- `S2B(s)`: state to block (R93). -/
def s2b (s : CipherState) : Block := s.s00 ++ s.s10 ++ s.s01 ++ s.s11

/-- `B2S` (R92). -/
def execB2s (x : Block) (s : State) : Host.Outcome State Fault Refusal :=
  .next (s.driveResult (.state (b2s x).toBus))

/-- `S2B` (R93). -/
def execS2b (w : StateBus) (s : State) : Host.Outcome State Fault Refusal :=
  .next (s.driveResult (.block (s2b (.ofBus w))))

end Sys2Proof.Machine
end

