-- ==== Sys2Proof/Machine/Tables.lean ====
section
/-! DEFINITION. The constants of the hardware (00_scope.md R5), the reference S-box (41_sbox.md R82), the derivation of the
inverse table (R83), and the default configuration (R6). They are constants, not state (10_state.md R15). -/

namespace Sys2Proof

/-- Entry `n` of a table; every address is valid and a read changes nothing (R31, R35, R81). -/
def SBoxTable.lookup (t : SBoxTable) (n : Nibble) : Nibble := t[n.toNat]

/-- One turn of the loop of R83: `ISBOX[SBOX[n]] = n`. -/
def SBoxTable.invertEntry (t inv : SBoxTable) (n : Fin 16) : SBoxTable :=
  inv.set (t[n]).toNat (BitVec.ofNat 4 n.val) (t[n]).isLt

/-- The inverse table, derived by the loop of R83 over `n` in 0..15. A bijection writes every entry; the zeros it starts
from are left in place only for a table that no admissible configuration holds (DESIGN CHOICE, safe; log entry 14). -/
def SBoxTable.inverse (t : SBoxTable) : SBoxTable :=
  (List.finRange 16).foldl t.invertEntry (Vector.replicate 16 0)

end Sys2Proof

namespace Sys2Proof.Machine

/-- `POLY`: x^4 + x + 1, all five bits (R5; 90_conflicts.md C2). -/
def poly : BitVec 5 := 0b10011

/-- `RC[1]` (R5, R120). There is no `RC[0]`. -/
def rc1 : Nibble := 0b0001

/-- `RC[2]` (R5, R120). -/
def rc2 : Nibble := 0b0010

/-- The diagonal entry of `MIX = [[3,2],[2,3]]` (R5). -/
def mixDiag : Nibble := 3

/-- The off-diagonal entry of `MIX` (R5). -/
def mixOff : Nibble := 2

/-- `SBOX_REF`, the default of the parameter `SBOX` (R6, R82), which the spec marks as general knowledge and not from
the source (G1, N2). PRESUMED, unsafe: a proof that evaluates it may say what the repository's own table would not
(log entry 5). -/
def sboxRef : SBoxTable :=
  #v[0xE, 0x4, 0xD, 0x1, 0x2, 0xF, 0xB, 0x8, 0x3, 0xA, 0x6, 0xC, 0x5, 0x9, 0x0, 0x7]

/-- The configuration of `exec`, `step` and `core`: the defaults of R6. It carries the proof that its table is a bijection, so
one that is not is refused here (R81). `LANES` is 1 (log entry 7), `LATENCY` is not known (log entry 6). -/
def config : AdmissibleConfig where
  toConfig := { sbox := sboxRef, latency := Config.freeLatency, lanes := 1 }
  ok := by decide

/-- The forward table of that configuration (R30, R81). -/
def sboxTable : SBoxTable := config.sbox

end Sys2Proof.Machine
end

