-- ==== Sys2Proof/Machine/SubstitutionTables.lean ====
section
/-! DEFINITION. The Substitution Tables unit: `SBOX`, `ISBOX` (41_sbox.md). -/

namespace Sys2Proof.Machine

/-- `SBOX(n)` for the table `t` (R81). -/
def sub (t : SBoxTable) (n : Nibble) : Nibble := t.lookup n

/-- `ISBOX(n)` for the table `t`: entry `n` of the inverse table of R83 (R84). -/
def isub (t : SBoxTable) (n : Nibble) : Nibble := t.inverse.lookup n

/-- `SBOX` (R81). -/
def execSboxWith (c : AdmissibleConfig) (n : Nibble) (s : State) : Host.Outcome State Fault Refusal :=
  .next (s.driveResult (.nibble (sub c.sbox n)))

/-- `SBOX` (R81), in the default configuration. -/
def execSbox (n : Nibble) (s : State) : Host.Outcome State Fault Refusal :=
  execSboxWith config n s

/-- `ISBOX` (R84). -/
def execIsboxWith (c : AdmissibleConfig) (n : Nibble) (s : State) : Host.Outcome State Fault Refusal :=
  .next (s.driveResult (.nibble (isub c.sbox n)))

/-- `ISBOX` (R84), in the default configuration. -/
def execIsbox (n : Nibble) (s : State) : Host.Outcome State Fault Refusal :=
  execIsboxWith config n s

end Sys2Proof.Machine
end

