-- ==== Sys2Proof/Machine/KeySchedule.lean ====
section
/-! DEFINITION. The Key Schedule unit: `KEYSTEP`, `KEYEXP` (44_key_schedule.md). -/

namespace Sys2Proof.Machine

/-- `KEYSTEP(p, rc)` for the table `t` (R117): the lookup is on the OLD `p[1][1]`, and each later assignment uses the
element produced just before it (R177.2). -/
def keystep (t : SBoxTable) (p : CipherState) (rc : Nibble) : CipherState :=
  let n00 := p.s00 ^^^ sub t p.s11 ^^^ rc
  let n10 := p.s10 ^^^ n00
  let n01 := p.s01 ^^^ n10
  let n11 := p.s11 ^^^ n01
  { s00 := n00, s10 := n10, s01 := n01, s11 := n11 }

/-- `KEYEXP(k)` for the table `t` (R118): it takes only the key, never the old schedule (R119). -/
def keyexp (t : SBoxTable) (k : Key) : RoundKeys :=
  let k0 := b2s k
  let k1 := keystep t k0 rc1
  let k2 := keystep t k1 rc2
  { k0 := k0, k1 := k1, k2 := k2 }

/-- `KEYSTEP` (R117), for all 16 values of `rc` (R55, U13). -/
def execKeystepWith (c : AdmissibleConfig) (p : StateBus) (rc : Nibble) (s : State) : Host.Outcome State Fault Refusal :=
  .next (s.driveResult (.state (keystep c.sbox (.ofBus p) rc).toBus))

/-- `KEYSTEP` (R117), in the default configuration. -/
def execKeystep (p : StateBus) (rc : Nibble) (s : State) : Host.Outcome State Fault Refusal :=
  execKeystepWith config p rc s

/-- `KEYEXP` (R118). -/
def execKeyexpWith (c : AdmissibleConfig) (k : Key) (s : State) : Host.Outcome State Fault Refusal :=
  .next (s.driveResult (.schedule (keyexp c.sbox k).toBus))

/-- `KEYEXP` (R118), in the default configuration. -/
def execKeyexp (k : Key) (s : State) : Host.Outcome State Fault Refusal :=
  execKeyexpWith config k s

end Sys2Proof.Machine
end

