-- ==== Sys2Proof/Machine/FieldArithmetic.lean ====
section
/-! DEFINITION. The Field Arithmetic unit: `GFADD`, `GFMUL` (40_field_arithmetic.md). -/

namespace Sys2Proof.Machine

/-- `a (+) b` (R66): 4-bit XOR. -/
def gfAdd (a b : Nibble) : Nibble := a ^^^ b

/-- The working values of the multiplier (R67). -/
structure MulRegs where
  acc : Nibble
  a : Nibble
  b : Nibble
deriving DecidableEq, Repr

/-- A mask of `w` ones or zeros made from bit `i` of a nibble: `0 - v[i]`, not a branch (R67, R70). -/
def maskOfBit (w : Nat) (v : Nibble) (i : Nat) : BitVec w := 0#w - (v.extractLsb' i 1).setWidth w

/-- One iteration of R67: accumulate, shift at 5 bits, reduce under the mask of bit 3 of `a` before the shift. -/
def gfMulStep (r : MulRegs) : MulRegs :=
  let m := maskOfBit 4 r.b 0
  let h := maskOfBit 5 r.a 3
  let t := r.a ++ 0b0#1
  let t := t ^^^ (poly &&& h)
  { acc := r.acc ^^^ (r.a &&& m)
    a := t.extractLsb' 0 4
    b := r.b >>> 1 }

/-- How many iterations the multiplier makes, whatever its operands (R67, R70, R182). -/
def gfMulIterations : Nat := 4

/-- `a (*) b` (R67): a fixed number of iterations from `acc = 0`, with no test of `a` or `b` (R70). -/
def gfMul (a b : Nibble) : Nibble := (gfMulStep^[gfMulIterations] ⟨0, a, b⟩).acc

/-- `GFADD` (R66). -/
def execGfadd (a b : Nibble) (s : State) : Host.Outcome State Fault Refusal :=
  .next (s.driveResult (.nibble (gfAdd a b)))

/-- `GFMUL` (R67). -/
def execGfmul (a b : Nibble) (s : State) : Host.Outcome State Fault Refusal :=
  .next (s.driveResult (.nibble (gfMul a b)))

end Sys2Proof.Machine
end

