-- ==== Sys2Proof/Machine/RoundTransforms.lean ====
section
/-! DEFINITION. The Round Transforms unit: `NSUB`, `INSUB`, `SHROW`, `MIXCOL`, `KEYADD` (43_round_transforms.md). Each is a pure
function that computes every element of its result from its operands (R98). -/

namespace Sys2Proof.Machine

/-- `NSUB(s)` for the table `t` (R99). -/
def nsub (t : SBoxTable) (s : CipherState) : CipherState where
  s00 := sub t s.s00
  s10 := sub t s.s10
  s01 := sub t s.s01
  s11 := sub t s.s11

/-- `INSUB(s)` for the table `t` (R100). -/
def insub (t : SBoxTable) (s : CipherState) : CipherState where
  s00 := isub t s.s00
  s10 := isub t s.s10
  s01 := isub t s.s01
  s11 := isub t s.s11

/-- `SHROW(s)`: row 0 stays, the two elements of row 1 change places (R102). -/
def shrow (s : CipherState) : CipherState where
  s00 := s.s00
  s01 := s.s01
  s10 := s.s11
  s11 := s.s10

/-- `t[0][c]` of R104, from the two elements of the operand's column. -/
def mixTop (top bot : Nibble) : Nibble := gfAdd (gfMul mixDiag top) (gfMul mixOff bot)

/-- `t[1][c]` of R104; it reads the operand's `s[0][c]`, not the new one (R177.1). -/
def mixBot (top bot : Nibble) : Nibble := gfAdd (gfMul mixOff top) (gfMul mixDiag bot)

/-- `MIXCOL(s)` (R104). -/
def mixcol (s : CipherState) : CipherState where
  s00 := mixTop s.s00 s.s10
  s10 := mixBot s.s00 s.s10
  s01 := mixTop s.s01 s.s11
  s11 := mixBot s.s01 s.s11

/-- `KEYADD(s, k)` (R107). -/
def keyadd (s k : CipherState) : CipherState where
  s00 := gfAdd s.s00 k.s00
  s10 := gfAdd s.s10 k.s10
  s01 := gfAdd s.s01 k.s01
  s11 := gfAdd s.s11 k.s11

/-- `NSUB` (R99). -/
def execNsubWith (c : AdmissibleConfig) (w : StateBus) (s : State) : Host.Outcome State Fault Refusal :=
  .next (s.driveResult (.state (nsub c.sbox (.ofBus w)).toBus))

/-- `NSUB` (R99), in the default configuration. -/
def execNsub (w : StateBus) (s : State) : Host.Outcome State Fault Refusal :=
  execNsubWith config w s

/-- `INSUB` (R100). -/
def execInsubWith (c : AdmissibleConfig) (w : StateBus) (s : State) : Host.Outcome State Fault Refusal :=
  .next (s.driveResult (.state (insub c.sbox (.ofBus w)).toBus))

/-- `INSUB` (R100), in the default configuration. -/
def execInsub (w : StateBus) (s : State) : Host.Outcome State Fault Refusal :=
  execInsubWith config w s

/-- `SHROW` (R102). -/
def execShrow (w : StateBus) (s : State) : Host.Outcome State Fault Refusal :=
  .next (s.driveResult (.state (shrow (.ofBus w)).toBus))

/-- `MIXCOL` (R104). -/
def execMixcol (w : StateBus) (s : State) : Host.Outcome State Fault Refusal :=
  .next (s.driveResult (.state (mixcol (.ofBus w)).toBus))

/-- `KEYADD` (R107). -/
def execKeyadd (w k : StateBus) (s : State) : Host.Outcome State Fault Refusal :=
  .next (s.driveResult (.state (keyadd (.ofBus w) (.ofBus k)).toBus))

end Sys2Proof.Machine
end

