-- ==== Sys2Proof/Machine/CipherEngine.lean ====
section
/-! DEFINITION. The Cipher Engine: the datapaths `ENCBLK`, `DECBLK` and the commands `SETKEY`, `ENC`, `DEC`, with the reserved
code (45_cipher_engine.md, 60_exceptions.md R152). The order of the transforms is data: it depends on nothing (R135). -/

namespace Sys2Proof.Machine

/-- One transform of a datapath; `keyadd i` adds round key `i`. -/
inductive Stage where
  | keyadd (i : Fin 3)
  | nsub
  | insub
  | shrow
  | mixcol
deriving DecidableEq, Repr

/-- Round key `i` of a schedule (R11). -/
def roundKey (ks : RoundKeys) : Fin 3 → CipherState
  | 0 => ks.k0
  | 1 => ks.k1
  | 2 => ks.k2

/-- What one transform does to the working state. -/
def applyStage (t : SBoxTable) (ks : RoundKeys) (s : CipherState) : Stage → CipherState
  | .keyadd i => keyadd s (roundKey ks i)
  | .nsub => nsub t s
  | .insub => insub t s
  | .shrow => shrow s
  | .mixcol => mixcol s

/-- The working state after a list of transforms; it exists only inside one step (R17). -/
def runStages (t : SBoxTable) (ks : RoundKeys) (s : CipherState) (stages : List Stage) : CipherState :=
  stages.foldl (applyStage t ks) s

/-- The eight transforms of `ENCBLK`, steps 1 to 3 (R126); the last step has no `MIXCOL`. -/
def encStages : List Stage :=
  [.keyadd 0,
   .nsub, .shrow, .mixcol, .keyadd 1,
   .nsub, .shrow, .keyadd 2]

/-- The eight transforms of `DECBLK`, steps 1 to 3 (R127); `MIXCOL` is its own inverse (R106). -/
def decStages : List Stage :=
  [.keyadd 2, .shrow, .insub,
   .keyadd 1, .mixcol, .shrow, .insub,
   .keyadd 0]

/-- `ENCBLK(x, K0, K1, K2)` for the table `t` (R126). -/
def encblk (t : SBoxTable) (x : Block) (ks : RoundKeys) : Block := s2b (runStages t ks (b2s x) encStages)

/-- `DECBLK(x, K0, K1, K2)` for the table `t` (R127), ending in `S2B` like `ENCBLK` (90_conflicts.md C7). -/
def decblk (t : SBoxTable) (x : Block) (ks : RoundKeys) : Block := s2b (runStages t ks (b2s x) decStages)

/-- A command word with op `00` (R50, R152): it depends on neither `data` nor any state. -/
def execReserved (_data : BitVec 16) (s : State) : Host.Outcome State Fault Refusal := .next (s.raise .illegal)

/-- `SETKEY` (R129): it reads no state and never fails. -/
def execSetkeyWith (c : AdmissibleConfig) (data : Key) (s : State) : Host.Outcome State Fault Refusal :=
  .next (((s.writeRoundKeys (keyexp c.sbox data)).setKeyValid).respond .ok 0x0000#16)

/-- `SETKEY` (R129), in the default configuration. -/
def execSetkey (data : Key) (s : State) : Host.Outcome State Fault Refusal :=
  execSetkeyWith config data s

/-- `ENC` (R130): `KEY_VALID` is tested before the round keys are read (R153). -/
def execEncWith (c : AdmissibleConfig) (data : Block) (s : State) : Host.Outcome State Fault Refusal :=
  if s.keyValid then .next (s.respond .ok (encblk c.sbox data s.roundKeys)) else .next (s.raise .noKey)

/-- `ENC` (R130), in the default configuration. -/
def execEnc (data : Block) (s : State) : Host.Outcome State Fault Refusal :=
  execEncWith config data s

/-- `DEC` (R131): `KEY_VALID` is tested before the round keys are read (R153). -/
def execDecWith (c : AdmissibleConfig) (data : Block) (s : State) : Host.Outcome State Fault Refusal :=
  if s.keyValid then .next (s.respond .ok (decblk c.sbox data s.roundKeys)) else .next (s.raise .noKey)

/-- `DEC` (R131), in the default configuration. -/
def execDec (data : Block) (s : State) : Host.Outcome State Fault Refusal :=
  execDecWith config data s

/-- `ENCBLK` (R126): the round keys are operands here. -/
def execEncblkWith (c : AdmissibleConfig) (x : Block) (k0 k1 k2 : StateBus) (s : State) :
    Host.Outcome State Fault Refusal :=
  .next (s.driveResult (.block (encblk c.sbox x (.ofBuses k0 k1 k2))))

/-- `ENCBLK` (R126), in the default configuration. -/
def execEncblk (x : Block) (k0 k1 k2 : StateBus) (s : State) : Host.Outcome State Fault Refusal :=
  execEncblkWith config x k0 k1 k2 s

/-- `DECBLK` (R127). -/
def execDecblkWith (c : AdmissibleConfig) (x : Block) (k0 k1 k2 : StateBus) (s : State) :
    Host.Outcome State Fault Refusal :=
  .next (s.driveResult (.block (decblk c.sbox x (.ofBuses k0 k1 k2))))

/-- `DECBLK` (R127), in the default configuration. -/
def execDecblk (x : Block) (k0 k1 k2 : StateBus) (s : State) : Host.Outcome State Fault Refusal :=
  execDecblkWith config x k0 k1 k2 s

end Sys2Proof.Machine
end

