-- ==== Sys2Proof/Machine/Configured.lean ====
section
/-! DEFINITION. The machine with its configuration as a parameter (00_scope.md R6, 41_sbox.md R81): one machine for every
admissible configuration. The configuration is no state: no command and no reset changes it (10_state.md R15, R172). The
host's interface names `exec`, `step` and `core` without a configuration; they are this machine at the default one. -/

namespace Sys2Proof.Machine

/-- One instruction in the machine that `c` configures. Only the table of `c` is read: `LATENCY` and `LANES` are in no
rule (R6, R166, R183). -/
def execWith (c : AdmissibleConfig) (i : Instr) (s : State) : Host.Outcome State Fault Refusal :=
  match i with
  | .reserved data => execReserved data s
  | .setkey data => execSetkeyWith c data s
  | .enc data => execEncWith c data s
  | .dec data => execDecWith c data s
  | .gfadd a b => execGfadd a b s
  | .gfmul a b => execGfmul a b s
  | .sbox n => execSboxWith c n s
  | .isbox n => execIsboxWith c n s
  | .b2s x => execB2s x s
  | .s2b w => execS2b w s
  | .nsub w => execNsubWith c w s
  | .insub w => execInsubWith c w s
  | .shrow w => execShrow w s
  | .mixcol w => execMixcol w s
  | .keyadd w k => execKeyadd w k s
  | .keystep p rc => execKeystepWith c p rc s
  | .keyexp k => execKeyexpWith c k s
  | .encblk x k0 k1 k2 => execEncblkWith c x k0 k1 k2 s
  | .decblk x k0 k1 k2 => execDecblkWith c x k0 k1 k2 s

/-- The host's next move, where `run` executes an instruction. With no move pending the CORE is idle and keeps its state
(R165, R186 "stop"; log entry 8); a reset is the reset event (R171); a word driven on a port is decoded and executed as
one step (R62, R186). -/
def stepBy (run : Instr → State → Host.Outcome State Fault Refusal) (s : State) : Host.Outcome State Fault Refusal :=
  match s.takeMove with
  | none => .next s
  | some (.reset, s') => .next s'.applyReset
  | some (.drive w, s') => run (decode w) s'

/-- One step of the machine that `c` configures. -/
def stepWith (c : AdmissibleConfig) (s : State) : Host.Outcome State Fault Refusal := stepBy (execWith c) s

/-- The machine that `c` configures, behind the host's interface. Reset is the same for all: it touches no constant
(R172). -/
def coreWith (c : AdmissibleConfig) : Host.Core where
  State := State
  Fault := Fault
  Refusal := Refusal
  step := stepWith c
  reset := State.reset

/-- The machine of a raw configuration, or the refusal of that configuration by name (R6, R81). -/
def machineOf (raw : Config) : Except ConfigError Host.Core :=
  match raw.checked with
  | .ok c => .ok (coreWith c)
  | .error e => .error e

end Sys2Proof.Machine
end

