-- ==== Sys2Proof/Machine/Dispatch.lean ====
section
/-! DEFINITION. One arm per instruction. -/

namespace Sys2Proof.Machine

def exec (i : Instr) (s : State) : Host.Outcome State Fault Refusal :=
  match i with
  -- the command level (30_encoding.md R47)
  | .reserved data => Sys2Proof.Machine.execReserved data s
  | .setkey data => Sys2Proof.Machine.execSetkey data s
  | .enc data => Sys2Proof.Machine.execEnc data s
  | .dec data => Sys2Proof.Machine.execDec data s
  -- the unit level (30_encoding.md R54)
  | .gfadd a b => Sys2Proof.Machine.execGfadd a b s
  | .gfmul a b => Sys2Proof.Machine.execGfmul a b s
  | .sbox n => Sys2Proof.Machine.execSbox n s
  | .isbox n => Sys2Proof.Machine.execIsbox n s
  | .b2s x => Sys2Proof.Machine.execB2s x s
  | .s2b w => Sys2Proof.Machine.execS2b w s
  | .nsub w => Sys2Proof.Machine.execNsub w s
  | .insub w => Sys2Proof.Machine.execInsub w s
  | .shrow w => Sys2Proof.Machine.execShrow w s
  | .mixcol w => Sys2Proof.Machine.execMixcol w s
  | .keyadd w k => Sys2Proof.Machine.execKeyadd w k s
  | .keystep p rc => Sys2Proof.Machine.execKeystep p rc s
  | .keyexp k => Sys2Proof.Machine.execKeyexp k s
  | .encblk x k0 k1 k2 => Sys2Proof.Machine.execEncblk x k0 k1 k2 s
  | .decblk x k0 k1 k2 => Sys2Proof.Machine.execDecblk x k0 k1 k2 s

end Sys2Proof.Machine
end

