-- ==== Sys2Proof/Machine/Step.lean ====
section
/-! DEFINITION. One step of the machine: the host's next move, as one atomic step (20_memory.md R35, R38; 70_reset_and_hazards.md R186). -/

namespace Sys2Proof.Machine

/-- One step: the host's next move, with `exec` for a word driven on a port. -/
def step (s : State) : Host.Outcome State Fault Refusal := stepBy exec s

/-- `s` with the word that a bare number of `nbits` bits stands for as the host's very next move (log entries 8, 11); `s`
itself where the number is no word of its port. -/
def State.withFetchWord (s : State) (nbits w : Nat) : State :=
  match tableWord nbits w with
  | some word => s.pushMove (.drive word)
  | none => s

end Sys2Proof.Machine
end

