-- ==== Sys2Proof/Machine/Script.lean ====
section
/-! DEFINITION. The host script: statements and pseudo-statements and the moves they expand to (30_encoding.md R60, R61). -/

namespace Sys2Proof.Machine

/-- A statement of the host script: the five of R60, then the three pseudo-statements of R61. -/
inductive Statement where
  /-- `RESET` (R60). -/
  | reset
  /-- `SETKEY imm16` (R60). -/
  | setkey (imm : BitVec 16)
  /-- `ENC imm16` (R60). -/
  | enc (imm : BitVec 16)
  /-- `DEC imm16` (R60). -/
  | dec (imm : BitVec 16)
  /-- `.WORD imm18`, the only way to write a reserved command (R60). -/
  | word (imm : BitVec 18)
  /-- `NEW imm16`, the source's `new(key)` (R61, R133). -/
  | new (imm : BitVec 16)
  /-- `ENCRYPT b0, ..., b(n-1)` (R61, R132). -/
  | encrypt (blocks : List Block)
  /-- `DECRYPT b0, ..., b(n-1)` (R61, R132). -/
  | decrypt (blocks : List Block)
deriving DecidableEq, Repr

/-- The move that issues a command word (R186). -/
def issue (w : CommandWord) : Move := .drive ⟨.command, w⟩

/-- The word `0x10000 OR imm16` of `SETKEY` (R60). -/
def setkeyWord (imm : BitVec 16) : CommandWord := 0x10000#18 ||| imm.setWidth 18

/-- The word `0x20000 OR imm16` of `ENC` (R60). -/
def encWord (imm : BitVec 16) : CommandWord := 0x20000#18 ||| imm.setWidth 18

/-- The word `0x30000 OR imm16` of `DEC` (R60). -/
def decWord (imm : BitVec 16) : CommandWord := 0x30000#18 ||| imm.setWidth 18

/-- The moves a statement stands for, in order; a sequence of length 0 expands to nothing (R60, R61). -/
def expand : Statement → List Move
  | .reset => [.reset]
  | .setkey k => [issue (setkeyWord k)]
  | .enc b => [issue (encWord b)]
  | .dec b => [issue (decWord b)]
  | .word w => [issue w]
  | .new k => [.reset, issue (setkeyWord k)]
  | .encrypt bs => bs.map fun b => issue (encWord b)
  | .decrypt bs => bs.map fun b => issue (decWord b)

/-- A host script loaded as the host's moves: those still pending come first. -/
def State.load (s : State) (script : List Statement) : State :=
  { s with pending := s.pending ++ script.flatMap expand }

end Sys2Proof.Machine
end

