-- ==== Sys2Proof/Safety.lean ====
section
/-! DEFINITION. The terms claims are stated in: the parts of a response, the invariants, when two states look alike from outside,
a cipher object as a reference machine, the schoolbook oracle, and the datapaths and the key schedule out of counted operations. -/

namespace Sys2Proof.Safety

open Sys2Proof.Machine

/-- The `status` field of a response word (R48). -/
def statusOf (r : ResponseWord) : BitVec 2 := r.extractLsb' 16 2

/-- The `data` field of a response word (R48). -/
def dataOf (r : ResponseWord) : BitVec 16 := r.extractLsb' 0 16

/-- R14, as a property of one state: while `KEY_VALID = 1` the registers hold the schedule of the key in `RK[0]`. -/
def ScheduleFromKey (s : State) : Prop := s.keyValid = true → s.roundKeys = keyexp sboxTable s.rk0

/-- R48, R49: no response has the status that is never produced, and an error carries no data. -/
def ResponsesLegal (s : State) : Prop :=
  ∀ r ∈ s.responses, statusOf r ≠ 0b11#2 ∧ (statusOf r ≠ 0b00#2 → dataOf r = 0x0000#16)

/-- The architectural state of R10 is the same in both. -/
def SameCore (s t : State) : Prop := s.rk0 = t.rk0 ∧ s.rk1 = t.rk1 ∧ s.rk2 = t.rk2 ∧ s.keyValid = t.keyValid

/-- Two states that nothing outside can tell apart: the round keys need agree only while `KEY_VALID = 1` (R21, R173). -/
def LooksAlike (s t : State) : Prop :=
  s.keyValid = t.keyValid ∧ (s.keyValid = true → s.roundKeys = t.roundKeys) ∧ s.pending = t.pending ∧
    s.responses = t.responses ∧ s.unitOut = t.unitOut

/-- What a cipher object answers to an instruction, knowing only whether it has a key and which (00_scope.md R2,
45_cipher_engine.md R129 to R133): the new key and the responses. It is the source's object in the spec's own envelope:
the source's always has a key and answers no error; that it may lack one and answers `E_NOKEY` and `E_ILLEGAL` is the
spec's (R13, 90_conflicts.md C8). Unit operations leave it alone. -/
def objectInstr (key : Option Key) : Instr → Option Key × List ResponseWord
  | .reserved _ => (key, [responseWord .illegal 0])
  | .setkey k => (some k, [responseWord .ok 0])
  | .enc x =>
    match key with
    | none => (none, [responseWord .noKey 0])
    | some k => (some k, [responseWord .ok (encblk sboxTable x (keyexp sboxTable k))])
  | .dec x =>
    match key with
    | none => (none, [responseWord .noKey 0])
    | some k => (some k, [responseWord .ok (decblk sboxTable x (keyexp sboxTable k))])
  | .gfadd _ _ => (key, [])
  | .gfmul _ _ => (key, [])
  | .sbox _ => (key, [])
  | .isbox _ => (key, [])
  | .b2s _ => (key, [])
  | .s2b _ => (key, [])
  | .nsub _ => (key, [])
  | .insub _ => (key, [])
  | .shrow _ => (key, [])
  | .mixcol _ => (key, [])
  | .keyadd _ _ => (key, [])
  | .keystep _ _ => (key, [])
  | .keyexp _ => (key, [])
  | .encblk _ _ _ _ => (key, [])
  | .decblk _ _ _ _ => (key, [])

/-- What the object answers to a move: reset takes its key away (R173). -/
def objectMove (key : Option Key) : Move → Option Key × List ResponseWord
  | .reset => (none, [])
  | .drive w => objectInstr key (decode w)

/-- What the object answers to a list of moves, in order (R38). -/
def objectRun (key : Option Key) : List Move → Option Key × List ResponseWord
  | [] => (key, [])
  | m :: rest =>
    let now := objectMove key m
    let later := objectRun now.1 rest
    (later.1, now.2 ++ later.2)

/-- The machine state `s` stands for the object that holds `key` (R13, R14). -/
def Represents (s : State) : Option Key → Prop
  | none => s.keyValid = false
  | some k => s.keyValid = true ∧ s.roundKeys = keyexp sboxTable k

/-- The move loads a key: a command word with op `01` (R47, R129). -/
def LoadsKey (m : Move) : Prop := ∃ k, m = .drive (encode (.setkey k))

/-- The instruction asks for a block: `ENC` or `DEC` (R130, R131). -/
def AsksForBlock (i : Instr) : Prop := ∃ x, i = .enc x ∨ i = .dec x

/-- The schoolbook oracle of R68, written out bit by bit as it stands there. -/
def gfMulSchoolbook (a b : Nibble) : Nibble :=
  let p0 := a[0] && b[0]
  let p1 := (a[1] && b[0]) ^^ (a[0] && b[1])
  let p2 := (a[2] && b[0]) ^^ (a[1] && b[1]) ^^ (a[0] && b[2])
  let p3 := (a[3] && b[0]) ^^ (a[2] && b[1]) ^^ (a[1] && b[2]) ^^ (a[0] && b[3])
  let p4 := (a[3] && b[1]) ^^ (a[2] && b[2]) ^^ (a[1] && b[3])
  let p5 := (a[3] && b[2]) ^^ (a[2] && b[3])
  let p6 := a[3] && b[3]
  let r0 := p0 ^^ p4
  let r1 := p1 ^^ p4 ^^ p5
  let r2 := p2 ^^ p5 ^^ p6
  let r3 := p3 ^^ p6
  BitVec.ofBool r3 ++ BitVec.ofBool r2 ++ BitVec.ofBool r1 ++ BitVec.ofBool r0

/-- The primitive operations R180 counts. -/
structure Work where
  /-- Reads of the forward or the inverse table. -/
  lookups : Nat := 0
  /-- Calls of `GFMUL`. -/
  multiplies : Nat := 0
  /-- Nibble additions, outside the key addition of a whole state. -/
  nibbleXors : Nat := 0
  /-- Key additions of a whole state. -/
  stateXors : Nat := 0
deriving DecidableEq, Repr

/-- A computation that counts its primitive operations. -/
abbrev Counted (α : Type) := StateM Work α

/-- `SBOX(n)`, counted. -/
def subCounted (t : SBoxTable) (n : Nibble) : Counted Nibble := do
  modify fun w => { w with lookups := w.lookups + 1 }
  pure (sub t n)

/-- `ISBOX(n)`, counted. -/
def isubCounted (t : SBoxTable) (n : Nibble) : Counted Nibble := do
  modify fun w => { w with lookups := w.lookups + 1 }
  pure (isub t n)

/-- `a (*) b`, counted. -/
def gfMulCounted (a b : Nibble) : Counted Nibble := do
  modify fun w => { w with multiplies := w.multiplies + 1 }
  pure (gfMul a b)

/-- `a (+) b`, counted. -/
def gfAddCounted (a b : Nibble) : Counted Nibble := do
  modify fun w => { w with nibbleXors := w.nibbleXors + 1 }
  pure (gfAdd a b)

/-- `KEYADD(s, k)`, counted as one state addition. -/
def keyaddCounted (s k : CipherState) : Counted CipherState := do
  modify fun w => { w with stateXors := w.stateXors + 1 }
  pure (keyadd s k)

/-- The same function of a nibble on all four elements (R99, R100). -/
def mapCounted (f : Nibble → Counted Nibble) (s : CipherState) : Counted CipherState := do
  let a ← f s.s00
  let b ← f s.s10
  let c ← f s.s01
  let d ← f s.s11
  pure { s00 := a, s10 := b, s01 := c, s11 := d }

/-- One line of R104: `(m (*) top) (+) (n (*) bot)`. -/
def mixLineCounted (m n top bot : Nibble) : Counted Nibble := do
  let a ← gfMulCounted m top
  let b ← gfMulCounted n bot
  gfAddCounted a b

/-- `MIXCOL(s)` in the form of R104. -/
def mixcolCounted (s : CipherState) : Counted CipherState := do
  let a ← mixLineCounted mixDiag mixOff s.s00 s.s10
  let b ← mixLineCounted mixOff mixDiag s.s00 s.s10
  let c ← mixLineCounted mixDiag mixOff s.s01 s.s11
  let d ← mixLineCounted mixOff mixDiag s.s01 s.s11
  pure { s00 := a, s10 := b, s01 := c, s11 := d }

/-- One transform of a datapath out of counted primitives; `SHROW` makes none (R102: wiring). -/
def stageCounted (t : SBoxTable) (ks : RoundKeys) (s : CipherState) : Stage → Counted CipherState
  | .keyadd i => keyaddCounted s (roundKey ks i)
  | .nsub => mapCounted (subCounted t) s
  | .insub => mapCounted (isubCounted t) s
  | .shrow => pure (shrow s)
  | .mixcol => mixcolCounted s

/-- A datapath out of counted primitives: the stages in order between `B2S` and `S2B` (R126, R127). -/
def datapathCounted (t : SBoxTable) (ks : RoundKeys) (x : Block) (stages : List Stage) : Counted Block := do
  let s ← stages.foldlM (stageCounted t ks) (b2s x)
  pure (s2b s)

/-- `KEYSTEP(p, rc)` out of counted primitives (R117). -/
def keystepCounted (t : SBoxTable) (p : CipherState) (rc : Nibble) : Counted CipherState := do
  let looked ← subCounted t p.s11
  let half ← gfAddCounted p.s00 looked
  let n00 ← gfAddCounted half rc
  let n10 ← gfAddCounted p.s10 n00
  let n01 ← gfAddCounted p.s01 n10
  let n11 ← gfAddCounted p.s11 n01
  pure { s00 := n00, s10 := n10, s01 := n01, s11 := n11 }

/-- `KEYEXP(k)` out of counted primitives (R118). -/
def keyexpCounted (t : SBoxTable) (k : Key) : Counted RoundKeys := do
  let k1 ← keystepCounted t (b2s k) rc1
  let k2 ← keystepCounted t k1 rc2
  pure { k0 := b2s k, k1 := k1, k2 := k2 }

/-- The instruction reads the substitution table (R81, R84, R99, R100, R117, R118, R126, R127, R129 to R131). -/
def readsTheTable : Instr → Bool
  | .reserved _ => false
  | .setkey _ => true
  | .enc _ => true
  | .dec _ => true
  | .gfadd _ _ => false
  | .gfmul _ _ => false
  | .sbox _ => true
  | .isbox _ => true
  | .b2s _ => false
  | .s2b _ => false
  | .nsub _ => true
  | .insub _ => true
  | .shrow _ => false
  | .mixcol _ => false
  | .keyadd _ _ => false
  | .keystep _ _ => true
  | .keyexp _ => true
  | .encblk _ _ _ _ => true
  | .decblk _ _ _ _ => true

end Sys2Proof.Safety
end

