-- ==== Sys2Proof/Certificates/Slice0/Obligations.lean ====
section
/-! DEFINITION. The statements for the provers. Each one's docstring names the rule of spec/ it rests on. A statement about
an instruction's result is an equation for the next state, so it says that the instruction completes and that every
field it does not name is unchanged. `exec`, `step` and `core` are the machine of the default configuration, and
`execWith`, `stepWith` and `coreWith` the machine of any other (log entry 15). Where a statement speaks of `sboxTable` it
holds for whichever bijection that is; where it gives numbers that depend on the S-box it names `sboxRef` (41_sbox.md
R82). -/

open Sys2Proof Sys2Proof.Machine Sys2Proof.Safety

/-! ## Fetching, decoding and encoding -/

/-- One step is the host's next move: a word driven on a port runs as the instruction it decodes to, from the state with
that move taken; a reset is the reset event; with no move the CORE keeps its state (R38, R62, R165, R186; that the
moves stand in a list of the state is the model's choice, log entry 8). -/
def Obligations.StepRunsTheDecodedInstruction : Prop :=
  (∀ (s : State) (w : BusWord) (rest : List Move), s.pending = .drive w :: rest →
    step s = exec (decode w) { s with pending := rest }) ∧
  (∀ (s : State) (rest : List Move), s.pending = .reset :: rest →
    step s = .next ({ s with pending := rest }).applyReset) ∧
  (∀ s : State, s.pending = [] → step s = .next s)

/-- No bit of an encoding is dropped: for every instruction and every operand (R46, R47, R54, R62). -/
def Obligations.DecodeOfEncodeIsTheInstruction : Prop := ∀ i : Instr, decode (encode i) = i

/-- Every word of every port has exactly one meaning, and the word is recovered from it (R47, R50, R54). -/
def Obligations.EncodeOfDecodeIsTheWord : Prop := ∀ w : BusWord, encode (decode w) = w

/-- Words written out from the tables of R46, R47 and R54, with the instructions they stand for. -/
def Obligations.WordsOfTheEncodingTablesDecode : Prop :=
  decode ⟨.command, 0b011100001111110000#18⟩ = .setkey 0xC3F0 ∧
  decode ⟨.command, 0b101001110001100011#18⟩ = .enc 0x9C63 ∧
  decode ⟨.command, 0b110111001011000110#18⟩ = .dec 0x72C6 ∧
  decode ⟨.command, 0b001111111111111111#18⟩ = .reserved 0xFFFF ∧
  decode ⟨.gfmul, 0b00110111#8⟩ = .gfmul 0x3 0x7 ∧
  decode ⟨.isbox, 0b1110#4⟩ = .isbox 0xE ∧
  decode ⟨.s2b, 0x72C6#16⟩ = .s2b 0x72C6 ∧
  decode ⟨.nibbleSub, 0b10001000001010100#17⟩ = .insub 0x1054 ∧
  decode ⟨.keystep, 0x1C3F0#20⟩ = .keystep 0xC3F0 0x1 ∧
  decode ⟨.encblk, 0x9C63C3F030FF6696#64⟩ = .encblk 0x9C63 0xC3F0 0x30FF 0x6696

/-- R47, its match and mask over the 18-bit word: each row's words decode to the row's command with the low 16 bits as
data, and the four rows cover every word. -/
def Obligations.OpAloneSelectsTheCommand : Prop :=
  ∀ w : CommandWord,
    (w &&& 0x30000#18 = 0x00000#18 → decode ⟨.command, w⟩ = .reserved (w.setWidth 16)) ∧
    (w &&& 0x30000#18 = 0x10000#18 → decode ⟨.command, w⟩ = .setkey (w.setWidth 16)) ∧
    (w &&& 0x30000#18 = 0x20000#18 → decode ⟨.command, w⟩ = .enc (w.setWidth 16)) ∧
    (w &&& 0x30000#18 = 0x30000#18 → decode ⟨.command, w⟩ = .dec (w.setWidth 16)) ∧
    (w &&& 0x30000#18 = 0x00000#18 ∨ w &&& 0x30000#18 = 0x10000#18 ∨
      w &&& 0x30000#18 = 0x20000#18 ∨ w &&& 0x30000#18 = 0x30000#18)

/-- The words of the host script and the expansion of its pseudo-statements (R60, R61). -/
def Obligations.ScriptStatementsExpandToTheirWords : Prop :=
  (∀ k : Key, expand (.setkey k) = [.drive (encode (.setkey k))]) ∧
  (∀ x : Block, expand (.enc x) = [.drive (encode (.enc x))]) ∧
  (∀ x : Block, expand (.dec x) = [.drive (encode (.dec x))]) ∧
  (∀ w : CommandWord, expand (.word w) = [.drive ⟨.command, w⟩]) ∧
  expand .reset = [.reset] ∧
  (∀ k : Key, expand (.new k) = expand .reset ++ expand (.setkey k)) ∧
  (∀ bs : List Block, expand (.encrypt bs) = bs.flatMap fun b => expand (.enc b)) ∧
  (∀ bs : List Block, expand (.decrypt bs) = bs.flatMap fun b => expand (.dec b))

/-! ## The command level -/

/-- R152: a command word with `cmd[17:16] = 0b00` raises `E_ILLEGAL`, whatever its data and whatever the state: the
response is `0x10000` and nothing else changes. -/
def Obligations.ReservedWordRaisesIllegal : Prop :=
  ∀ (w : CommandWord) (s : State), w.extractLsb' 16 2 = 0b00#2 →
    decode ⟨.command, w⟩ = .reserved (w.extractLsb' 0 16) ∧
    exec (.reserved (w.extractLsb' 0 16)) s = .next { s with responses := s.responses ++ [0x10000#18] }

/-- R50: the 65536 words `0x00000` to `0x0FFFF`, and only they, are answered with `E_ILLEGAL`; every other word is a
`SETKEY`, `ENC` or `DEC`. -/
def Obligations.OnlyReservedWordsAreIllegal : Prop :=
  ∀ (w : CommandWord) (s : State),
    ((∃ t, exec (decode ⟨.command, w⟩) s = .next t ∧ t.responses = s.responses ++ [0x10000#18]) ↔ w.toNat ≤ 0x0FFFF) ∧
    (0x0FFFF < w.toNat → ∃ data, decode ⟨.command, w⟩ = .setkey data ∨ decode ⟨.command, w⟩ = .enc data ∨
      decode ⟨.command, w⟩ = .dec data)

/-- R129: `SETKEY` writes all three round keys and `KEY_VALID` in one step, for any data and in any state, and responds
`OK` with `0x0000`; the word is op `01` and the key. -/
def Obligations.SetkeyLoadsTheSchedule : Prop :=
  (∀ (k : Key) (s : State),
    encode (.setkey k) = ⟨.command, (0b01#2 ++ k : BitVec 18)⟩ ∧
    exec (.setkey k) s = .next { s with
      rk0 := (keyexp sboxTable k).k0.toBus
      rk1 := (keyexp sboxTable k).k1.toBus
      rk2 := (keyexp sboxTable k).k2.toBus
      keyValid := true
      responses := s.responses ++ [0x00000#18] }) ∧
  (keyexp sboxRef 0xC3F0#16).toBus = 0xC3F030FF6696#48

/-- R130: with a key, `ENC` responds `OK` with `ENCBLK` of its data under the three registers and changes nothing else;
without one it raises `E_NOKEY`. -/
def Obligations.EncAnswersTheCiphertext : Prop :=
  ∀ (x : Block) (s : State),
    encode (.enc x) = ⟨.command, (0b10#2 ++ x : BitVec 18)⟩ ∧
    (s.keyValid = true → exec (.enc x) s = .next { s with
      responses := s.responses ++ [0b00#2 ++ encblk sboxTable x (.ofBuses s.rk0 s.rk1 s.rk2)] }) ∧
    (s.keyValid = false → exec (.enc x) s = .next { s with responses := s.responses ++ [0x20000#18] })

/-- R131: with a key, `DEC` responds `OK` with `DECBLK` of its data under the three registers and changes nothing else;
without one it raises `E_NOKEY`. -/
def Obligations.DecAnswersThePlaintext : Prop :=
  ∀ (x : Block) (s : State),
    encode (.dec x) = ⟨.command, (0b11#2 ++ x : BitVec 18)⟩ ∧
    (s.keyValid = true → exec (.dec x) s = .next { s with
      responses := s.responses ++ [0b00#2 ++ decblk sboxTable x (.ofBuses s.rk0 s.rk1 s.rk2)] }) ∧
    (s.keyValid = false → exec (.dec x) s = .next { s with responses := s.responses ++ [0x20000#18] })

/-- R153: with `KEY_VALID = 0`, `ENC` and `DEC` answer `0x20000` whatever their data, and whatever the round-key
registers hold: two states that differ in those registers alone still differ in them alone. -/
def Obligations.NoKeyIsRaisedBeforeTheRegistersAreRead : Prop :=
  ∀ (x : Block) (i : Instr) (s : State) (r0 r1 r2 : StateBus), i = .enc x ∨ i = .dec x → s.keyValid = false →
    exec i s = .next { s with responses := s.responses ++ [0x20000#18] } ∧
    exec i { s with rk0 := r0, rk1 := r1, rk2 := r2 } =
      .next { s with rk0 := r0, rk1 := r1, rk2 := r2, responses := s.responses ++ [0x20000#18] }

/-- R48 and R49: every command produces exactly one response word `{status, data}` with one of the three codes; an error
and a `SETKEY` carry `0x0000`, an `OK` of `ENC` or `DEC` carries the output block. -/
def Obligations.EveryCommandAnswersOneResponseWord : Prop :=
  (∀ (i : Instr) (s : State), i.port = .command →
    ∃ (t : State) (st : Status) (data : BitVec 16),
      exec i s = .next t ∧ t.responses = s.responses ++ [responseWord st data] ∧
      (st ≠ .ok → data = 0x0000#16) ∧
      (∀ k, i = .setkey k → st = .ok ∧ data = 0x0000#16) ∧
      (∀ x, i = .enc x → st = .ok → data = encblk sboxTable x s.roundKeys) ∧
      (∀ x, i = .dec x → st = .ok → data = decblk sboxTable x s.roundKeys)) ∧
  (∀ (st : Status) (data : BitVec 16),
    statusOf (responseWord st data) = st.code ∧ dataOf (responseWord st data) = data ∧ st.code ≠ 0b11#2) ∧
  Status.ok.code = 0b00#2 ∧ Status.illegal.code = 0b01#2 ∧ Status.noKey.code = 0b10#2

/-- R151: of the commands, exactly the reserved code is answered `E_ILLEGAL`, and exactly an `ENC` or `DEC` with
`KEY_VALID = 0` is answered `E_NOKEY`; all others are answered `OK`. An exception records nothing: its response
carries `0x0000` and no other field of the state changes. -/
def Obligations.ExactlyTwoExceptionsAreRaised : Prop :=
  ∀ (i : Instr) (s : State), i.port = .command →
    ∃ (t : State) (r : ResponseWord), exec i s = .next t ∧ t.responses = s.responses ++ [r] ∧
      (statusOf r = 0b01#2 ↔ ∃ data, i = .reserved data) ∧
      (statusOf r = 0b10#2 ↔ AsksForBlock i ∧ s.keyValid = false) ∧
      statusOf r ≠ 0b11#2 ∧
      (statusOf r ≠ 0b00#2 → dataOf r = 0x0000#16 ∧ t = { s with responses := s.responses ++ [r] })

/-- R156, for any instruction and any state: an error response carries `0x0000` and is the only effect: the round keys
and `KEY_VALID` keep their values. -/
def Obligations.AnErrorChangesNoState : Prop :=
  ∀ (i : Instr) (s t : State) (r : ResponseWord),
    exec i s = .next t → t.responses = s.responses ++ [r] → statusOf r ≠ 0b00#2 →
      dataOf r = 0x0000#16 ∧ t = { s with responses := s.responses ++ [r] }

/-- R157: after an error the CORE is ready for the next command exactly as before it: what the next instruction does is
the same but for the error response that stands earlier in the list. -/
def Obligations.AnErrorIsNotSticky : Prop :=
  ∀ (i : Instr) (s : State) (e : Exc), ∃ (t t' : State) (out : List ResponseWord),
    exec i s = .next t ∧ exec i (s.raise e) = .next t' ∧
    t.responses = s.responses ++ out ∧ t'.responses = (s.raise e).responses ++ out ∧
    SameCore t t' ∧ t.unitOut = t'.unitOut ∧ t.pending = t'.pending

/-! ## The unit level -/

/-- R66: `GFADD` is bitwise XOR, with the laws the rule lists. -/
def Obligations.GfaddIsXor : Prop :=
  (∀ (a b : Nibble) (s : State),
    encode (.gfadd a b) = ⟨.gfadd, (a ++ b : BitVec 8)⟩ ∧
    exec (.gfadd a b) s = .next { s with unitOut := some (.nibble (a ^^^ b)) }) ∧
  (∀ a b c : Nibble, gfAdd a b = gfAdd b a ∧ gfAdd (gfAdd a b) c = gfAdd a (gfAdd b c) ∧ gfAdd a a = 0 ∧ gfAdd a 0 = a) ∧
  gfAdd 0x9 0xC = 0x5

/-- R68: `GFMUL` gives the schoolbook product for all 256 pairs, from any state, and changes nothing else. -/
def Obligations.GfmulIsTheSchoolbookProduct : Prop :=
  ∀ (a b : Nibble) (s : State),
    encode (.gfmul a b) = ⟨.gfmul, (a ++ b : BitVec 8)⟩ ∧
    exec (.gfmul a b) s = .next { s with unitOut := some (.nibble (gfMulSchoolbook a b)) }

/-- The laws of `GFMUL` (40_field_arithmetic.md section 3, R69). Associativity, distributivity and the inverses are an
inference the spec marks as its own: "[derived: from rule R67 by evaluation; ...]". -/
def Obligations.GfmulIsFieldMultiplication : Prop :=
  (∀ a b : Nibble, gfMul a b = gfMul b a) ∧ (∀ a : Nibble, gfMul a 0 = 0 ∧ gfMul a 1 = a) ∧
  (∀ a b c : Nibble, gfMul (gfMul a b) c = gfMul a (gfMul b c)) ∧
  (∀ a b c : Nibble, gfMul a (gfAdd b c) = gfAdd (gfMul a b) (gfMul a c)) ∧
  (∀ a : Nibble, a ≠ 0 → ∃ b, gfMul a b = 1)

/-- The two constant multipliers as wiring (40_field_arithmetic.md section 3, R71), an inference the spec marks as its
own: "[derived: from rule R67 with a = 2 and a = 3, and commutativity rule R69]". -/
def Obligations.ConstantMultipliersAreWiring : Prop :=
  ∀ v : Nibble,
    gfMul 2 v = BitVec.ofBool v[2] ++ BitVec.ofBool v[1] ++ BitVec.ofBool (v[0] ^^ v[3]) ++ BitVec.ofBool v[3] ∧
    gfMul 3 v = gfMul 2 v ^^^ v

/-- R81: the `SBOX` unit reads entry `n` of the forward table, for all 16 addresses. -/
def Obligations.SboxReadsTheForwardTable : Prop :=
  ∀ (n : Nibble) (s : State),
    encode (.sbox n) = ⟨.sbox, n⟩ ∧
    exec (.sbox n) s = .next { s with unitOut := some (.nibble (sboxTable.lookup n)) }

/-- R84: the `ISBOX` unit reads entry `n` of the inverse table, and undoes and is undone by the `SBOX` unit's lookup. -/
def Obligations.IsboxReadsTheInverseTable : Prop :=
  ∀ (n : Nibble) (s : State),
    encode (.isbox n) = ⟨.isbox, n⟩ ∧
    exec (.isbox n) s = .next { s with unitOut := some (.nibble (sboxTable.inverse.lookup n)) } ∧
    sboxTable.inverse.lookup (sboxTable.lookup n) = n ∧ sboxTable.lookup (sboxTable.inverse.lookup n) = n ∧
    isub sboxRef 0xE = 0x0 ∧ isub sboxRef 0x0 = 0xE

/-- For every bijection the table of the loop of R83 inverts it on both sides; for `SBOX_REF` it is the table printed
there. The right inverse and that table are inferences the spec marks as its own: "[derived: from bijectivity in
rule R81]", "[derived: from rule R82 by the loop above]". -/
def Obligations.TheDerivedTableInvertsEveryBijection : Prop :=
  (∀ t : SBoxTable, Function.Bijective t.lookup →
    (∀ n : Nibble, t.inverse.lookup (t.lookup n) = n) ∧ (∀ m : Nibble, t.lookup (t.inverse.lookup m) = m)) ∧
  sboxRef.inverse = #v[0xE, 0x3, 0x4, 0x8, 0x1, 0xC, 0xA, 0xF, 0x7, 0xD, 0x9, 0x6, 0xB, 0x2, 0x0, 0x5]

/-- R6, R81: a configuration is admitted exactly when its table is a bijection and it has a lane. Any other is refused by
name: for its table if that is no bijection, else for its lanes. -/
def Obligations.NonBijectiveTableIsRefused : Prop :=
  ∀ c : Config,
    ((∃ a, c.checked = .ok a ∧ a.toConfig = c) ↔ Function.Bijective c.sbox.lookup ∧ 0 < c.lanes) ∧
    (¬ Function.Bijective c.sbox.lookup → c.checked = .error .sboxNotBijection) ∧
    (Function.Bijective c.sbox.lookup → c.lanes = 0 → c.checked = .error .lanesNotPositive)

/-- `SBOX` is a parameter of the machine (R6, R81, R15): every configuration whose table is a bijection makes a machine
and every other is refused; each machine makes the host's moves by its own `execWith` and resets alike (R172; that the
moves stand in a list is log entry 8); there every instruction has its effect with that machine's table, ENC and DEC
undo each other, and `LANES` and `LATENCY` change nothing (R166, R183). `core`, `step` and `exec` are the machine of the
default configuration (log entry 15, a DESIGN CHOICE). -/
def Obligations.EveryAdmissibleTableMakesAMachine : Prop :=
  (∀ raw : Config, Function.Bijective raw.sbox.lookup → 0 < raw.lanes →
    ∃ c, raw.checked = .ok c ∧ c.sbox = raw.sbox ∧ machineOf raw = .ok (coreWith c)) ∧
  (∀ raw : Config, ¬ (Function.Bijective raw.sbox.lookup ∧ 0 < raw.lanes) → ∃ e, machineOf raw = .error e) ∧
  (∀ i s, exec i s = execWith config i s) ∧ (∀ s, step s = stepWith config s) ∧ Sys2Proof.core = coreWith config ∧
  (∀ (c : AdmissibleConfig) (s : State),
    (∀ w rest, s.pending = .drive w :: rest → stepWith c s = execWith c (decode w) { s with pending := rest }) ∧
    (∀ rest, s.pending = .reset :: rest → stepWith c s = .next ({ s with pending := rest }).applyReset) ∧
    (s.pending = [] → stepWith c s = .next s)) ∧
  (∀ c : AdmissibleConfig, (coreWith c).step = stepWith c ∧ (coreWith c).reset = State.reset) ∧
  (∀ (c : AdmissibleConfig) (i : Instr) (s : State), readsTheTable i = false → execWith c i s = exec i s) ∧
  (∀ (c : AdmissibleConfig) (s : State),
    (∀ n, execWith c (.sbox n) s = .next { s with unitOut := some (.nibble (c.sbox.lookup n)) }) ∧
    (∀ n, execWith c (.isbox n) s = .next { s with unitOut := some (.nibble (c.sbox.inverse.lookup n)) }) ∧
    (∀ w, execWith c (.nsub w) s = .next { s with unitOut := some (.state (nsub c.sbox (.ofBus w)).toBus) }) ∧
    (∀ w, execWith c (.insub w) s = .next { s with unitOut := some (.state (insub c.sbox (.ofBus w)).toBus) }) ∧
    (∀ p rc, execWith c (.keystep p rc) s =
      .next { s with unitOut := some (.state (keystep c.sbox (.ofBus p) rc).toBus) }) ∧
    (∀ k, execWith c (.keyexp k) s = .next { s with unitOut := some (.schedule (keyexp c.sbox k).toBus) }) ∧
    (∀ x k0 k1 k2, execWith c (.encblk x k0 k1 k2) s =
      .next { s with unitOut := some (.block (encblk c.sbox x (.ofBuses k0 k1 k2))) }) ∧
    (∀ x k0 k1 k2, execWith c (.decblk x k0 k1 k2) s =
      .next { s with unitOut := some (.block (decblk c.sbox x (.ofBuses k0 k1 k2))) }) ∧
    (∀ k, execWith c (.setkey k) s = .next { s with
      rk0 := (keyexp c.sbox k).k0.toBus
      rk1 := (keyexp c.sbox k).k1.toBus
      rk2 := (keyexp c.sbox k).k2.toBus
      keyValid := true
      responses := s.responses ++ [0x00000#18] }) ∧
    (∀ x, s.keyValid = false →
      execWith c (.enc x) s = .next { s with responses := s.responses ++ [0x20000#18] } ∧
      execWith c (.dec x) s = .next { s with responses := s.responses ++ [0x20000#18] }) ∧
    (∀ x, s.keyValid = true →
      execWith c (.enc x) s = .next { s with
        responses := s.responses ++ [0b00#2 ++ encblk c.sbox x s.roundKeys] } ∧
      execWith c (.dec x) s = .next { s with
        responses := s.responses ++ [0b00#2 ++ decblk c.sbox x s.roundKeys] } ∧
      decblk c.sbox (encblk c.sbox x s.roundKeys) s.roundKeys = x ∧
      encblk c.sbox (decblk c.sbox x s.roundKeys) s.roundKeys = x)) ∧
  (∀ c c' : AdmissibleConfig, c.sbox = c'.sbox → stepWith c = stepWith c')

/-- R92, R93: the converters regroup the sixteen wires, and are the identity on the state bus. -/
def Obligations.ConvertersRegroupTheWires : Prop :=
  (∀ (x : Block) (s : State),
    encode (.b2s x) = ⟨.b2s, x⟩ ∧
    exec (.b2s x) s = .next { s with unitOut := some (.state x) } ∧
    (b2s x).s00 = x.extractLsb' 12 4 ∧ (b2s x).s10 = x.extractLsb' 8 4 ∧
    (b2s x).s01 = x.extractLsb' 4 4 ∧ (b2s x).s11 = x.extractLsb' 0 4) ∧
  (∀ (w : StateBus) (s : State),
    encode (.s2b w) = ⟨.s2b, w⟩ ∧
    exec (.s2b w) s = .next { s with unitOut := some (.block w) }) ∧
  (∀ c : CipherState, s2b c = c.s00 ++ c.s10 ++ c.s01 ++ c.s11) ∧
  b2s 0x9C63 = { s00 := 9, s01 := 6, s10 := 0xC, s11 := 3 } ∧
  s2b { s00 := 7, s01 := 0xC, s10 := 2, s11 := 6 } = 0x72C6

/-- R94: the converters are mutually inverse. -/
def Obligations.ConvertersAreMutuallyInverse : Prop :=
  (∀ x : Block, s2b (b2s x) = x) ∧ (∀ c : CipherState, b2s (s2b c) = c)

/-- R99, R100: forward and inverse nibble substitution on the bus, with the select bit of each; the four lookups are
independent. -/
def Obligations.NibbleSubstitutionLooksUpFourNibbles : Prop :=
  (∀ (w : StateBus) (s : State),
    encode (.nsub w) = ⟨.nibbleSub, (0b0#1 ++ w : BitVec 17)⟩ ∧
    exec (.nsub w) s = .next { s with unitOut := some (.state
      (sboxTable.lookup (w.extractLsb' 12 4) ++ sboxTable.lookup (w.extractLsb' 8 4) ++
        sboxTable.lookup (w.extractLsb' 4 4) ++ sboxTable.lookup (w.extractLsb' 0 4))) } ∧
    encode (.insub w) = ⟨.nibbleSub, (0b1#1 ++ w : BitVec 17)⟩ ∧
    exec (.insub w) s = .next { s with unitOut := some (.state
      (sboxTable.inverse.lookup (w.extractLsb' 12 4) ++ sboxTable.inverse.lookup (w.extractLsb' 8 4) ++
        sboxTable.inverse.lookup (w.extractLsb' 4 4) ++ sboxTable.inverse.lookup (w.extractLsb' 0 4))) }) ∧
  (nsub sboxRef (.ofBus 0x5F93)).toBus = 0xF7A1 ∧ (insub sboxRef (.ofBus 0x1054)).toBus = 0x3EC1

/-- For every admissible table each nibble substitution undoes the other (43_round_transforms.md section 2, R101), an
inference the spec marks as its own: "[derived: from rule R99, rule R100 and rule R84]". -/
def Obligations.NibbleSubstitutionsUndoEachOther : Prop :=
  ∀ (t : SBoxTable) (c : CipherState), t.isBijection = true → insub t (nsub t c) = c ∧ nsub t (insub t c) = c

/-- R102, R103: `SHROW` exchanges the second and fourth hex digits and is an involution. -/
def Obligations.ShrowExchangesRowOne : Prop :=
  (∀ (w : StateBus) (s : State),
    encode (.shrow w) = ⟨.shrow, w⟩ ∧
    exec (.shrow w) s = .next { s with unitOut := some (.state
      (w.extractLsb' 12 4 ++ w.extractLsb' 0 4 ++ w.extractLsb' 4 4 ++ w.extractLsb' 8 4)) }) ∧
  (∀ c : CipherState, shrow (shrow c) = c) ∧ (∀ c : CipherState, c.s10 = c.s11 → shrow c = c) ∧
  (shrow (.ofBus 0xF7A1)).toBus = 0xF1A7 ∧ (shrow (.ofBus 0x1234)).toBus = 0x1432

/-- R104: `MIXCOL` multiplies each column by `[[3,2],[2,3]]`, both lines reading the operand. That columns of equal
elements are fixed is an inference the spec marks as its own: "A column with equal elements `v, v` maps to itself, since
`3 (*) v (+) 2 (*) v = v` [derived: from rule R71]". -/
def Obligations.MixcolMultipliesEachColumn : Prop :=
  (∀ (w : StateBus) (s : State),
    encode (.mixcol w) = ⟨.mixcol, w⟩ ∧
    exec (.mixcol w) s = .next { s with unitOut := some (.state
      (gfAdd (gfMul 3 (w.extractLsb' 12 4)) (gfMul 2 (w.extractLsb' 8 4)) ++
        gfAdd (gfMul 2 (w.extractLsb' 12 4)) (gfMul 3 (w.extractLsb' 8 4)) ++
        gfAdd (gfMul 3 (w.extractLsb' 4 4)) (gfMul 2 (w.extractLsb' 0 4)) ++
        gfAdd (gfMul 2 (w.extractLsb' 4 4)) (gfMul 3 (w.extractLsb' 0 4)))) }) ∧
  (mixcol { s00 := 0, s10 := 0, s01 := 0, s11 := 0 } = { s00 := 0, s10 := 0, s01 := 0, s11 := 0 }) ∧
  (∀ v u : Nibble, mixcol { s00 := v, s10 := v, s01 := u, s11 := u } = { s00 := v, s10 := v, s01 := u, s11 := u }) ∧
  (mixcol (.ofBus 0xF1A7)).toBus = 0x0E3E

/-- The form with one constant multiplier per column (43_round_transforms.md section 4, R105), an inference the spec
marks as its own: "[derived: from rule R104 and distributivity, rule R69; ...]". -/
def Obligations.MixcolNeedsOneMultiplierPerColumn : Prop :=
  ∀ c : CipherState,
    (mixcol c).s00 = gfAdd (gfMul 2 (gfAdd c.s00 c.s10)) c.s00 ∧
    (mixcol c).s10 = gfAdd (gfMul 2 (gfAdd c.s00 c.s10)) c.s10 ∧
    (mixcol c).s01 = gfAdd (gfMul 2 (gfAdd c.s01 c.s11)) c.s01 ∧
    (mixcol c).s11 = gfAdd (gfMul 2 (gfAdd c.s01 c.s11)) c.s11

/-- `MIXCOL` is its own inverse (43_round_transforms.md section 4, R106): the source's open question, closed by an
inference the spec marks as its own (92_eei_decisions.md D15, "DERIVED"). -/
def Obligations.MixcolIsItsOwnInverse : Prop := ∀ c : CipherState, mixcol (mixcol c) = c

/-- R107, R108: `KEYADD` is the XOR of the two buses and undoes itself. -/
def Obligations.KeyaddIsXorOfTheBuses : Prop :=
  (∀ (w k : StateBus) (s : State),
    encode (.keyadd w k) = ⟨.keyadd, (w ++ k : BitVec 32)⟩ ∧
    exec (.keyadd w k) s = .next { s with unitOut := some (.state (w ^^^ k)) }) ∧
  (∀ c k : CipherState, keyadd (keyadd c k) k = c ∧ keyadd c k = keyadd k c ∧
    keyadd c (.ofBus 0x0000) = c ∧ keyadd c c = .ofBus 0x0000) ∧
  (keyadd (.ofBus 0x9C63) (.ofBus 0xC3F0)).toBus = 0x5F93

/-- The lane structure of the five transforms (43_round_transforms.md section 6, R109), an inference the spec marks as
its own: "[derived: from rules R99, R100, R102, R104 and R107]". -/
def Obligations.TransformsActOnLanes : Prop :=
  (∀ t : SBoxTable, ∃ f g : Nibble → Nibble, ∀ c : CipherState,
    nsub t c = { s00 := f c.s00, s10 := f c.s10, s01 := f c.s01, s11 := f c.s11 } ∧
    insub t c = { s00 := g c.s00, s10 := g c.s10, s01 := g c.s01, s11 := g c.s11 }) ∧
  (∃ f : Nibble → Nibble → Nibble, ∀ c k : CipherState,
    keyadd c k = { s00 := f c.s00 k.s00, s10 := f c.s10 k.s10, s01 := f c.s01 k.s01, s11 := f c.s11 k.s11 }) ∧
  (∀ c : CipherState, shrow c = { s00 := c.s00, s10 := c.s11, s01 := c.s01, s11 := c.s10 }) ∧
  (∃ top bot : Nibble → Nibble → Nibble,
    (∀ c : CipherState, mixcol c =
      { s00 := top c.s00 c.s10, s10 := bot c.s00 c.s10, s01 := top c.s01 c.s11, s11 := bot c.s01 c.s11 }) ∧
    (∃ x y z, top x z ≠ top y z) ∧ (∃ x y z, top z x ≠ top z y) ∧
    (∃ x y z, bot x z ≠ bot y z) ∧ (∃ x y z, bot z x ≠ bot z y))

/-- R117: `KEYSTEP` with its operand bus and its four chained assignments, for all round constants. That it is a bijection
for each constant is an inference the spec marks as its own: "For a fixed `rc` it is a bijection on states: ...
[derived: from the four assignments; see `90_conflicts.md` C3]". -/
def Obligations.KeystepChainsItsAssignments : Prop :=
  (∀ (p : StateBus) (rc : Nibble) (s : State),
    encode (.keystep p rc) = ⟨.keystep, (rc ++ p : BitVec 20)⟩ ∧
    let n00 := p.extractLsb' 12 4 ^^^ sboxTable.lookup (p.extractLsb' 0 4) ^^^ rc
    let n10 := p.extractLsb' 8 4 ^^^ n00
    let n01 := p.extractLsb' 4 4 ^^^ n10
    let n11 := p.extractLsb' 0 4 ^^^ n01
    exec (.keystep p rc) s = .next { s with unitOut := some (.state (n00 ++ n10 ++ n01 ++ n11)) }) ∧
  (∀ (t : SBoxTable) (rc : Nibble), Function.Bijective fun p => keystep t p rc) ∧
  (keystep sboxRef (.ofBus 0xC3F0) 0b0001).toBus = 0x30FF

/-- R118, R120: `KEYEXP` puts out `{K0, K1, K2}`: the key itself, then two `KEYSTEP`s with the constants 0001 and 0010. -/
def Obligations.KeyexpDerivesThreeRoundKeys : Prop :=
  (∀ (k : Key) (s : State),
    encode (.keyexp k) = ⟨.keyexp, k⟩ ∧
    exec (.keyexp k) s = .next { s with unitOut := some (.schedule
      (k ++ (keystep sboxTable (b2s k) 0b0001#4).toBus ++
        (keystep sboxTable (keystep sboxTable (b2s k) 0b0001#4) 0b0010#4).toBus)) }) ∧
  (∀ (t : SBoxTable) (k : Key), (keyexp t k).k0.toBus = k) ∧
  (keyexp sboxRef 0xC3F0).toBus = 0xC3F030FF6696

/-- R126: the eight transforms of `ENCBLK` in their order, with the example's trace value. -/
def Obligations.EncblkRunsItsEightTransforms : Prop :=
  (∀ (x : Block) (k0 k1 k2 : StateBus) (s : State),
    encode (.encblk x k0 k1 k2) = ⟨.encblk, (x ++ k0 ++ k1 ++ k2 : BitVec 64)⟩ ∧
    let c := keyadd (b2s x) (.ofBus k0)
    let c := keyadd (mixcol (shrow (nsub sboxTable c))) (.ofBus k1)
    let c := keyadd (shrow (nsub sboxTable c)) (.ofBus k2)
    exec (.encblk x k0 k1 k2) s = .next { s with unitOut := some (.block (s2b c)) }) ∧
  encblk sboxRef 0x9C63 (.ofBuses 0xC3F0 0x30FF 0x6696) = 0x72C6

/-- R127: the eight transforms of `DECBLK` in their order, with the example's value. -/
def Obligations.DecblkRunsItsEightTransforms : Prop :=
  (∀ (x : Block) (k0 k1 k2 : StateBus) (s : State),
    encode (.decblk x k0 k1 k2) = ⟨.decblk, (x ++ k0 ++ k1 ++ k2 : BitVec 64)⟩ ∧
    let c := insub sboxTable (shrow (keyadd (b2s x) (.ofBus k2)))
    let c := insub sboxTable (shrow (mixcol (keyadd c (.ofBus k1))))
    let c := keyadd c (.ofBus k0)
    exec (.decblk x k0 k1 k2) s = .next { s with unitOut := some (.block (s2b c)) }) ∧
  decblk sboxRef 0x72C6 (.ofBuses 0xC3F0 0x30FF 0x6696) = 0x9C63

/-- R128: for every block, every triple of states and every admissible table, each datapath undoes the other. -/
def Obligations.DatapathsUndoEachOther : Prop :=
  ∀ (t : SBoxTable) (x : Block) (ks : RoundKeys), t.isBijection = true →
    decblk t (encblk t x ks) ks = x ∧ encblk t (decblk t x ks) ks = x

/-- The fixed work of `ENC`, `DEC` and `SETKEY`, whatever the data: built out of counted operations, each datapath gives
what `encblk` or `decblk` gives after 8 lookups, 8 multiplications and 4 nibble additions (one `MIXCOL`) and 3 state
additions, and the schedule what `keyexp` gives after 2 lookups and 10 nibble additions (70_reset_and_hazards.md section
4, R180), an inference the spec marks as its own: "[derived: from rules R118, R126 and R127]". -/
def Obligations.DatapathsDoFixedWork : Prop :=
  (∀ (t : SBoxTable) (ks : RoundKeys) (x : Block),
    (datapathCounted t ks x encStages).run {} =
      (encblk t x ks, { lookups := 8, multiplies := 8, nibbleXors := 4, stateXors := 3 }) ∧
    (datapathCounted t ks x decStages).run {} =
      (decblk t x ks, { lookups := 8, multiplies := 8, nibbleXors := 4, stateXors := 3 })) ∧
  (∀ (t : SBoxTable) (k : Key), (keyexpCounted t k).run {} = (keyexp t k, { lookups := 2, nibbleXors := 10 })) ∧
  encStages.length = 8 ∧ decStages.length = 8 ∧ encStages.count .mixcol = 1 ∧ decStages.count .mixcol = 1

/-! ## What instructions leave alone -/

/-- The frame of the fifteen unit operations (R65, R80, R90, R98, R116, R126, R127): only the bench's result changes. -/
def Obligations.UnitOperationsTouchNoArchitecturalState : Prop :=
  ∀ (i : Instr) (s t : State), i.port ≠ .command → exec i s = .next t →
    t.rk0 = s.rk0 ∧ t.rk1 = s.rk1 ∧ t.rk2 = s.rk2 ∧ t.keyValid = s.keyValid ∧
    t.pending = s.pending ∧ t.responses = s.responses ∧ t.freeIndex = s.freeIndex

/-- The frame of the four commands (R12, R48, R129 to R131, R152): one response is added; `ENC`, `DEC` and the reserved
code change no register, `SETKEY` changes only the three round keys and `KEY_VALID`. -/
def Obligations.CommandsChangeOnlyTheirRegisters : Prop :=
  ∀ (i : Instr) (s t : State), i.port = .command → exec i s = .next t →
    t.pending = s.pending ∧ t.unitOut = s.unitOut ∧ t.freeIndex = s.freeIndex ∧
    (∃ r, t.responses = s.responses ++ [r]) ∧ ((∀ k, i ≠ .setkey k) → SameCore s t)

/-- R12, R13, R18: a step changes a round-key register or `KEY_VALID` only when the host's move is a `SETKEY` word or a
reset. -/
def Obligations.OnlySetkeyAndResetWriteTheCore : Prop :=
  ∀ s t : State, step s = .next t → ¬ SameCore s t →
    ∃ m rest, s.pending = m :: rest ∧ (m = .reset ∨ LoadsKey m)

/-- R13: `KEY_VALID` is 0 after reset, every `SETKEY` sets it, nothing but reset clears it, and nothing but `SETKEY`
sets it. -/
def Obligations.KeyValidIsSetBySetkeyAndClearedByReset : Prop :=
  State.reset.keyValid = false ∧
  (∀ s t : State, step s = .next t →
    (∀ rest, s.pending = .reset :: rest → t.keyValid = false) ∧
    (∀ k rest, s.pending = .drive (encode (.setkey k)) :: rest → t.keyValid = true) ∧
    (s.keyValid = true → t.keyValid = false → ∃ rest, s.pending = .reset :: rest) ∧
    (s.keyValid = false → t.keyValid = true → ∃ k rest, s.pending = .drive (encode (.setkey k)) :: rest))

/-- R154 (and R180, an inference the spec marks as its own): every instruction completes from every state, and so does
every step: nothing waits, faults or is refused. -/
def Obligations.EveryInstructionCompletes : Prop :=
  (∀ (i : Instr) (s : State), ∃ t, exec i s = .next t) ∧ (∀ s : State, ∃ t, step s = .next t)

/-- R40 (and R20, an inference the spec marks as its own): what an instruction does depends on its operands and on the
49 bits of R10 alone, not on earlier blocks, responses or results. -/
def Obligations.OnlyTheCoreStateMatters : Prop :=
  ∀ (i : Instr) (s s' : State), SameCore s s' →
    ∃ (t t' : State) (out : List ResponseWord), exec i s = .next t ∧ exec i s' = .next t' ∧ SameCore t t' ∧
      t.responses = s.responses ++ out ∧ t'.responses = s'.responses ++ out ∧
      (i.port ≠ .command → t.unitOut = t'.unitOut)

/-- Two block commands may be exchanged: each keeps its own response, only their order changes (R40; R136, an inference
the spec marks as its own: "[derived: from rules R130 and R131]"). -/
def Obligations.BlockCommandsCommute : Prop :=
  ∀ (i j : Instr) (s : State), AsksForBlock i → AsksForBlock j →
    ∃ r q : ResponseWord,
      exec i s = .next { s with responses := s.responses ++ [r] } ∧
      exec j { s with responses := s.responses ++ [r] } = .next { s with responses := s.responses ++ [r, q] } ∧
      exec j s = .next { s with responses := s.responses ++ [q] } ∧
      exec i { s with responses := s.responses ++ [q] } = .next { s with responses := s.responses ++ [q, r] }

/-- R128 at the command port: from any state with a key, `DEC` of what `ENC` answered answers the block, and the other
way round; so every block is some block's ciphertext, an inference R131 marks as the spec's own: "[derived: from
rule R128]". -/
def Obligations.DecUndoesEncAtThePort : Prop :=
  ∀ (x : Block) (s : State), s.keyValid = true →
    (∃ y : Block, exec (.enc x) s = .next { s with responses := s.responses ++ [0b00#2 ++ y] } ∧
      exec (.dec y) s = .next { s with responses := s.responses ++ [0b00#2 ++ x] }) ∧
    (∃ y : Block, exec (.dec x) s = .next { s with responses := s.responses ++ [0b00#2 ++ y] } ∧
      exec (.enc y) s = .next { s with responses := s.responses ++ [0b00#2 ++ x] })

/-! ## Reset and invariants -/

/-- The reset event clears `KEY_VALID` and produces no response (70_reset_and_hazards.md section 1, R171, R172). That the
responses already given, the moves still to come and the last unit result stay is the model's choice (log entries 9, 8
and 1, DESIGN CHOICE). -/
def Obligations.ResetClearsKeyValidWithoutResponse : Prop :=
  State.reset.keyValid = false ∧
  ∀ (s : State) (rest : List Move), s.pending = .reset :: rest →
    ∃ t, step s = .next t ∧ t.keyValid = false ∧ t.responses = s.responses ∧ t.pending = rest ∧ t.unitOut = s.unitOut

/-- R173: from a reset on, as long as no `SETKEY` is issued, every answer is an error, and `ENC` and `DEC` raise
`E_NOKEY`. -/
def Obligations.ResetErasesTheKey : Prop :=
  ∀ (s : State) (moves : List Move), s.pending = .reset :: moves → (∀ m ∈ moves, ¬ LoadsKey m) →
    ∃ (t : State) (out : List ResponseWord),
      Host.Core.run Sys2Proof.core (moves.length + 1) s = .next t ∧ t.responses = s.responses ++ out ∧
      (∀ r ∈ out, r = 0x20000#18 ∨ r = 0x10000#18) ∧
      (∀ (i : Instr), AsksForBlock i → exec i t = .next { t with responses := t.responses ++ [0x20000#18] })

/-- Every step keeps the invariant that, while `KEY_VALID = 1`, the registers hold the schedule of the key in `RK[0]`
(10_state.md section 3, R14). That `RK[0]` is the key is an inference the spec marks as its own: "[derived: from
rule R129, rule R118 and rule R92]". -/
def Obligations.EveryStepKeepsTheSchedule : Prop :=
  ∀ s t : State, ScheduleFromKey s → step s = .next t → ScheduleFromKey t

/-- R48, R49: every step keeps the invariant that no response carries status 11 and no error carries data. -/
def Obligations.EveryStepKeepsResponsesLegal : Prop :=
  ∀ s t : State, ResponsesLegal s → step s = .next t → ResponsesLegal t

/-- Both invariants hold right after reset: `KEY_VALID = 0` there (R21, R172), and that no response stands in the list
is the model's choice (log entry 9). -/
def Obligations.BothInvariantsHoldAtReset : Prop := ScheduleFromKey State.reset ∧ ResponsesLegal State.reset

/-! ## Whole runs, from any state -/

/-- R13, R14, R38, R129 to R133, R184: run to the end of the host's moves, whatever they are, the machine answers
exactly what a cipher object answers that knows only whether it has a key and which one. It is the source's object in
the spec's own envelope: that it may lack a key and answers `E_NOKEY` and `E_ILLEGAL` is the spec's decision (R13,
90_conflicts.md C8). -/
def Obligations.TheMachineRefinesTheCipherObject : Prop :=
  ∀ (s : State) (key : Option Key), Represents s key →
    ∃ t, Host.Core.run Sys2Proof.core s.pending.length s = .next t ∧ t.pending = [] ∧
      Represents t (objectRun key s.pending).1 ∧ t.responses = s.responses ++ (objectRun key s.pending).2

/-- R21, R153, R173 (and R185, an inference the spec marks as its own): states that differ only in round keys no key is
valid for (and in the model's own counter) stay indistinguishable for any number of steps: the unspecified contents
of `RK` after reset are never observed. -/
def Obligations.UnspecifiedRoundKeysAreNeverObserved : Prop :=
  ∀ (n : Nat) (s s' : State), LooksAlike s s' →
    ∃ t t', Host.Core.run Sys2Proof.core n s = .next t ∧ Host.Core.run Sys2Proof.core n s' = .next t' ∧ LooksAlike t t'

/-- After `SETKEY k` (20_memory.md section 4, R39, an inference the spec marks as its own: "[derived: from rule R35 and
rule R38]"), every later `ENC` and `DEC` up to the next `SETKEY` or reset uses the schedule of `k` in full, whatever
came between. -/
def Obligations.ANewKeyIsVisibleInFull : Prop :=
  ∀ (s : State) (k : Key) (moves : List Move),
    s.pending = .drive (encode (.setkey k)) :: moves → (∀ m ∈ moves, m ≠ .reset ∧ ¬ LoadsKey m) →
    ∃ t, Host.Core.run Sys2Proof.core (moves.length + 1) s = .next t ∧
      ∀ x : Block,
        exec (.enc x) t = .next { t with responses := t.responses ++ [0b00#2 ++ encblk sboxTable x (keyexp sboxTable k)] } ∧
        exec (.dec x) t = .next { t with responses := t.responses ++ [0b00#2 ++ decblk sboxTable x (keyexp sboxTable k)] }

/-- R133, R174: `NEW k`, a reset and then `SETKEY k`, leaves any state with the schedule of `k` loaded, one `OK`
answered and the rest of the moves to come. -/
def Obligations.NewBuildsAnEngineWithItsKey : Prop :=
  ∀ (s : State) (k : Key) (rest : List Move), s.pending = expand (.new k) ++ rest →
    ∃ t, Host.Core.run Sys2Proof.core 2 s = .next t ∧ t.keyValid = true ∧ t.roundKeys = keyexp sboxTable k ∧
      t.pending = rest ∧ t.responses = s.responses ++ [0x00000#18]

/-- R132: with a key, a sequence of blocks is answered block by block, same length and order; the empty sequence is no
response. That decrypting the answers gives the blocks back is an inference the spec marks as its own: "With a key
loaded, `decrypt(encrypt(blocks)) = blocks` element by element [derived: from rule R128 and rule R38]". -/
def Obligations.SequencesAreAnsweredInOrderAndUndone : Prop :=
  ∀ (s : State) (bs : List Block), s.keyValid = true →
    (s.pending = expand (.encrypt bs) → Host.Core.run Sys2Proof.core bs.length s = .next { s with
      pending := []
      responses := s.responses ++ bs.map fun b => 0b00#2 ++ encblk sboxTable b s.roundKeys }) ∧
    (s.pending = expand (.decrypt bs) → Host.Core.run Sys2Proof.core bs.length s = .next { s with
      pending := []
      responses := s.responses ++ bs.map fun b => 0b00#2 ++ decblk sboxTable b s.roundKeys }) ∧
    (s.pending = expand (.decrypt (bs.map fun b => encblk sboxTable b s.roundKeys)) →
      Host.Core.run Sys2Proof.core bs.length s = .next { s with
        pending := []
        responses := s.responses ++ bs.map fun b => 0b00#2 ++ b })

/-- R38, R184: a run over `n` command words, whatever they are, adds exactly `n` responses. -/
def Obligations.NCommandWordsGiveNResponses : Prop :=
  ∀ (s : State) (ws : List CommandWord), s.pending = ws.map issue →
    ∃ t, Host.Core.run Sys2Proof.core ws.length s = .next t ∧ t.pending = [] ∧
      t.responses.length = s.responses.length + ws.length
end

