-- ==== Sys2Proof/Laws/Operands.lean ====
section
/-! SUPPORT. The layout of R91 loses nothing in either direction, and the converter of R92, R93 uses the same layout. -/

namespace Sys2Proof.Laws.Operands

open Sys2Proof.Machine

/-- The four nibbles of a word put together from four nibbles. -/
theorem slices_append (a b c d : Nibble) :
    BitVec.extractLsb' 12 4 (a ++ b ++ c ++ d : BitVec 16) = a ∧ BitVec.extractLsb' 8 4 (a ++ b ++ c ++ d : BitVec 16) = b ∧
      BitVec.extractLsb' 4 4 (a ++ b ++ c ++ d : BitVec 16) = c ∧ BitVec.extractLsb' 0 4 (a ++ b ++ c ++ d : BitVec 16) = d := by
  refine ⟨?_, ?_, ?_, ?_⟩
  · rw [BitVec.extractLsb'_append_eq_of_le (by decide), BitVec.extractLsb'_append_eq_of_le (by decide)]
    exact BitVec.extractLsb'_append_eq_left
  · rw [BitVec.extractLsb'_append_eq_of_le (by decide), BitVec.extractLsb'_append_eq_of_le (by decide)]
    exact BitVec.extractLsb'_append_eq_right
  · rw [BitVec.extractLsb'_append_eq_of_le (by decide)]
    exact BitVec.extractLsb'_append_eq_right
  · exact BitVec.extractLsb'_append_eq_right

@[simp] theorem ofBus_toBus (s : CipherState) : CipherState.ofBus s.toBus = s := by
  obtain ⟨h0, h1, h2, h3⟩ := slices_append s.s00 s.s10 s.s01 s.s11
  simp only [CipherState.ofBus, CipherState.toBus, h0, h1, h2, h3]

/-- Four nibbles cut from a bus, put together again. -/
theorem append_slices (w : StateBus) :
    w.extractLsb' 12 4 ++ w.extractLsb' 8 4 ++ w.extractLsb' 4 4 ++ w.extractLsb' 0 4 = w := by
  rw [BitVec.extractLsb'_append_extractLsb'_eq_extractLsb' (by decide),
    BitVec.extractLsb'_append_extractLsb'_eq_extractLsb' (by decide),
    BitVec.extractLsb'_append_extractLsb'_eq_extractLsb' (by decide)]
  exact BitVec.extractLsb'_eq_self

@[simp] theorem toBus_ofBus (w : StateBus) : (CipherState.ofBus w).toBus = w := append_slices w

theorem b2s_eq_ofBus (x : Block) : b2s x = .ofBus x := rfl

theorem s2b_eq_toBus (s : CipherState) : s2b s = s.toBus := rfl

/-- Reading back three round keys from the buses that carry them. -/
@[simp] theorem ofBuses_toBus (ks : RoundKeys) : RoundKeys.ofBuses ks.k0.toBus ks.k1.toBus ks.k2.toBus = ks := by
  simp [RoundKeys.ofBuses]

end Sys2Proof.Laws.Operands
end

