-- ==== Sys2Proof/Laws/State.lean ====
section
/-! SUPPORT. One lemma per field per update of the state, true by unfolding, so that no later proof unfolds a record update. -/

namespace Sys2Proof.Laws.State

open Sys2Proof.Machine

variable (s : State)

@[simp] theorem respond_rk0 (st : Status) (data : BitVec 16) : (s.respond st data).rk0 = s.rk0 := rfl
@[simp] theorem respond_rk1 (st : Status) (data : BitVec 16) : (s.respond st data).rk1 = s.rk1 := rfl
@[simp] theorem respond_rk2 (st : Status) (data : BitVec 16) : (s.respond st data).rk2 = s.rk2 := rfl
@[simp] theorem respond_keyValid (st : Status) (data : BitVec 16) : (s.respond st data).keyValid = s.keyValid := rfl
@[simp] theorem respond_pending (st : Status) (data : BitVec 16) : (s.respond st data).pending = s.pending := rfl
@[simp] theorem respond_responses (st : Status) (data : BitVec 16) : (s.respond st data).responses = s.responses ++ [responseWord st data] := rfl
@[simp] theorem respond_unitOut (st : Status) (data : BitVec 16) : (s.respond st data).unitOut = s.unitOut := rfl
@[simp] theorem respond_freeIndex (st : Status) (data : BitVec 16) : (s.respond st data).freeIndex = s.freeIndex := rfl

@[simp] theorem raise_rk0 (e : Exc) : (s.raise e).rk0 = s.rk0 := rfl
@[simp] theorem raise_rk1 (e : Exc) : (s.raise e).rk1 = s.rk1 := rfl
@[simp] theorem raise_rk2 (e : Exc) : (s.raise e).rk2 = s.rk2 := rfl
@[simp] theorem raise_keyValid (e : Exc) : (s.raise e).keyValid = s.keyValid := rfl
@[simp] theorem raise_pending (e : Exc) : (s.raise e).pending = s.pending := rfl
@[simp] theorem raise_responses (e : Exc) : (s.raise e).responses = s.responses ++ [responseWord e.status 0x0000#16] := rfl
@[simp] theorem raise_unitOut (e : Exc) : (s.raise e).unitOut = s.unitOut := rfl
@[simp] theorem raise_freeIndex (e : Exc) : (s.raise e).freeIndex = s.freeIndex := rfl

@[simp] theorem setKeyValid_rk0 : (s.setKeyValid).rk0 = s.rk0 := rfl
@[simp] theorem setKeyValid_rk1 : (s.setKeyValid).rk1 = s.rk1 := rfl
@[simp] theorem setKeyValid_rk2 : (s.setKeyValid).rk2 = s.rk2 := rfl
@[simp] theorem setKeyValid_keyValid : (s.setKeyValid).keyValid = true := rfl
@[simp] theorem setKeyValid_pending : (s.setKeyValid).pending = s.pending := rfl
@[simp] theorem setKeyValid_responses : (s.setKeyValid).responses = s.responses := rfl
@[simp] theorem setKeyValid_unitOut : (s.setKeyValid).unitOut = s.unitOut := rfl
@[simp] theorem setKeyValid_freeIndex : (s.setKeyValid).freeIndex = s.freeIndex := rfl

@[simp] theorem clearKeyValid_rk0 : (s.clearKeyValid).rk0 = s.rk0 := rfl
@[simp] theorem clearKeyValid_rk1 : (s.clearKeyValid).rk1 = s.rk1 := rfl
@[simp] theorem clearKeyValid_rk2 : (s.clearKeyValid).rk2 = s.rk2 := rfl
@[simp] theorem clearKeyValid_keyValid : (s.clearKeyValid).keyValid = false := rfl
@[simp] theorem clearKeyValid_pending : (s.clearKeyValid).pending = s.pending := rfl
@[simp] theorem clearKeyValid_responses : (s.clearKeyValid).responses = s.responses := rfl
@[simp] theorem clearKeyValid_unitOut : (s.clearKeyValid).unitOut = s.unitOut := rfl
@[simp] theorem clearKeyValid_freeIndex : (s.clearKeyValid).freeIndex = s.freeIndex := rfl

@[simp] theorem writeRoundKeys_rk0 (ks : RoundKeys) : (s.writeRoundKeys ks).rk0 = ks.k0.toBus := rfl
@[simp] theorem writeRoundKeys_rk1 (ks : RoundKeys) : (s.writeRoundKeys ks).rk1 = ks.k1.toBus := rfl
@[simp] theorem writeRoundKeys_rk2 (ks : RoundKeys) : (s.writeRoundKeys ks).rk2 = ks.k2.toBus := rfl
@[simp] theorem writeRoundKeys_keyValid (ks : RoundKeys) : (s.writeRoundKeys ks).keyValid = s.keyValid := rfl
@[simp] theorem writeRoundKeys_pending (ks : RoundKeys) : (s.writeRoundKeys ks).pending = s.pending := rfl
@[simp] theorem writeRoundKeys_responses (ks : RoundKeys) : (s.writeRoundKeys ks).responses = s.responses := rfl
@[simp] theorem writeRoundKeys_unitOut (ks : RoundKeys) : (s.writeRoundKeys ks).unitOut = s.unitOut := rfl
@[simp] theorem writeRoundKeys_freeIndex (ks : RoundKeys) : (s.writeRoundKeys ks).freeIndex = s.freeIndex := rfl

@[simp] theorem driveResult_rk0 (r : UnitResult) : (s.driveResult r).rk0 = s.rk0 := rfl
@[simp] theorem driveResult_rk1 (r : UnitResult) : (s.driveResult r).rk1 = s.rk1 := rfl
@[simp] theorem driveResult_rk2 (r : UnitResult) : (s.driveResult r).rk2 = s.rk2 := rfl
@[simp] theorem driveResult_keyValid (r : UnitResult) : (s.driveResult r).keyValid = s.keyValid := rfl
@[simp] theorem driveResult_pending (r : UnitResult) : (s.driveResult r).pending = s.pending := rfl
@[simp] theorem driveResult_responses (r : UnitResult) : (s.driveResult r).responses = s.responses := rfl
@[simp] theorem driveResult_unitOut (r : UnitResult) : (s.driveResult r).unitOut = some r := rfl
@[simp] theorem driveResult_freeIndex (r : UnitResult) : (s.driveResult r).freeIndex = s.freeIndex := rfl

@[simp] theorem forgetRoundKeys_rk0 : (s.forgetRoundKeys).rk0 = Config.freeWord s.freeIndex := rfl
@[simp] theorem forgetRoundKeys_rk1 : (s.forgetRoundKeys).rk1 = Config.freeWord (s.freeIndex + 1) := rfl
@[simp] theorem forgetRoundKeys_rk2 : (s.forgetRoundKeys).rk2 = Config.freeWord (s.freeIndex + 2) := rfl
@[simp] theorem forgetRoundKeys_keyValid : (s.forgetRoundKeys).keyValid = s.keyValid := rfl
@[simp] theorem forgetRoundKeys_pending : (s.forgetRoundKeys).pending = s.pending := rfl
@[simp] theorem forgetRoundKeys_responses : (s.forgetRoundKeys).responses = s.responses := rfl
@[simp] theorem forgetRoundKeys_unitOut : (s.forgetRoundKeys).unitOut = s.unitOut := rfl
@[simp] theorem forgetRoundKeys_freeIndex : (s.forgetRoundKeys).freeIndex = s.freeIndex + 3 := rfl

@[simp] theorem applyReset_rk0 : (s.applyReset).rk0 = Config.freeWord s.freeIndex := rfl
@[simp] theorem applyReset_rk1 : (s.applyReset).rk1 = Config.freeWord (s.freeIndex + 1) := rfl
@[simp] theorem applyReset_rk2 : (s.applyReset).rk2 = Config.freeWord (s.freeIndex + 2) := rfl
@[simp] theorem applyReset_keyValid : (s.applyReset).keyValid = false := rfl
@[simp] theorem applyReset_pending : (s.applyReset).pending = s.pending := rfl
@[simp] theorem applyReset_responses : (s.applyReset).responses = s.responses := rfl
@[simp] theorem applyReset_unitOut : (s.applyReset).unitOut = s.unitOut := rfl
@[simp] theorem applyReset_freeIndex : (s.applyReset).freeIndex = s.freeIndex + 3 := rfl

@[simp] theorem pushMove_rk0 (m : Move) : (s.pushMove m).rk0 = s.rk0 := rfl
@[simp] theorem pushMove_rk1 (m : Move) : (s.pushMove m).rk1 = s.rk1 := rfl
@[simp] theorem pushMove_rk2 (m : Move) : (s.pushMove m).rk2 = s.rk2 := rfl
@[simp] theorem pushMove_keyValid (m : Move) : (s.pushMove m).keyValid = s.keyValid := rfl
@[simp] theorem pushMove_pending (m : Move) : (s.pushMove m).pending = m :: s.pending := rfl
@[simp] theorem pushMove_responses (m : Move) : (s.pushMove m).responses = s.responses := rfl
@[simp] theorem pushMove_unitOut (m : Move) : (s.pushMove m).unitOut = s.unitOut := rfl
@[simp] theorem pushMove_freeIndex (m : Move) : (s.pushMove m).freeIndex = s.freeIndex := rfl

@[simp] theorem reset_keyValid : State.reset.keyValid = false := rfl
@[simp] theorem reset_pending : State.reset.pending = [] := rfl
@[simp] theorem reset_responses : State.reset.responses = [] := rfl
@[simp] theorem reset_unitOut : State.reset.unitOut = none := rfl
@[simp] theorem reset_freeIndex : State.reset.freeIndex = 0 := rfl

end Sys2Proof.Laws.State
end

