-- ==== Sys2Proof/Laws/Ops.lean ====
section
/-! SUPPORT. What each shared operation does, said once. -/

namespace Sys2Proof.Laws.Ops

open Sys2Proof.Machine

/-- A response adds one word at the end and changes nothing else. -/
theorem respond_eq (s : State) (st : Status) (data : BitVec 16) :
    s.respond st data = { s with responses := s.responses ++ [responseWord st data] } := rfl

/-- Taking an exception adds one word at the end and changes nothing else (R156). -/
theorem raise_eq (s : State) (e : Exc) :
    s.raise e = { s with responses := s.responses ++ [responseWord e.status 0x0000#16] } := rfl

/-- A unit's result changes only the bench's view of it. -/
theorem driveResult_eq (s : State) (r : UnitResult) : s.driveResult r = { s with unitOut := some r } := rfl

/-- The schedule just written is the schedule read (R39). -/
@[simp] theorem writeRoundKeys_roundKeys (s : State) (ks : RoundKeys) : (s.writeRoundKeys ks).roundKeys = ks := by
  simp [State.roundKeys]

@[simp] theorem respond_roundKeys (s : State) (st : Status) (data : BitVec 16) :
    (s.respond st data).roundKeys = s.roundKeys := rfl

@[simp] theorem raise_roundKeys (s : State) (e : Exc) : (s.raise e).roundKeys = s.roundKeys := rfl

@[simp] theorem setKeyValid_roundKeys (s : State) : s.setKeyValid.roundKeys = s.roundKeys := rfl

@[simp] theorem driveResult_roundKeys (s : State) (r : UnitResult) : (s.driveResult r).roundKeys = s.roundKeys := rfl

/-- The move taken is the oldest one pending, and only the list of pending moves changes. -/
theorem takeMove_cases (s : State) :
    (s.pending = [] ∧ s.takeMove = none) ∨
      ∃ m rest, s.pending = m :: rest ∧ s.takeMove = some (m, { s with pending := rest }) := by
  cases h : s.pending with
  | nil => exact .inl ⟨rfl, by simp [State.takeMove, h]⟩
  | cons m rest => exact .inr ⟨m, rest, rfl, by simp [State.takeMove, h]⟩

/-- A move put first is the one taken, from the state it was put on. -/
@[simp] theorem takeMove_pushMove (s : State) (m : Move) : (s.pushMove m).takeMove = some (m, s) := rfl

end Sys2Proof.Laws.Ops
end

