-- ==== Sys2Proof/Laws/Exec.lean ====
section
/-! SUPPORT. What an instruction can do, said once: it puts a value on a unit's result bus, or it loads a schedule and answers,
or it only answers. What a step can do, and one step of a run. Said for the machine of every configuration; `exec`, `step`
and `core` are the default one. -/

namespace Sys2Proof.Laws.Exec

open Sys2Proof.Machine

/-- The table of an admissible configuration is a bijection. -/
theorem sbox_isBijection (c : AdmissibleConfig) : c.sbox.isBijection = true :=
  (Bool.and_eq_true_iff.1 c.ok).1

/-- `exec` is the machine of the default configuration. -/
theorem exec_eq_execWith (i : Instr) (s : State) : exec i s = execWith config i s := by cases i <;> rfl

/-- `step` is the step of the machine of the default configuration. -/
theorem step_eq_stepWith (s : State) : step s = stepWith config s :=
  congrArg (stepBy · s) (funext fun i => funext fun t => exec_eq_execWith i t)

/-- The machine behind the host's interface is the machine of the default configuration. -/
theorem core_eq_coreWith : Sys2Proof.core = coreWith config := by
  simp [Sys2Proof.core, coreWith, funext step_eq_stepWith]

/-- Everything a step can do: idle, be reset, or execute the word that is driven. -/
theorem stepBy_cases (run : Instr → State → Host.Outcome State Fault Refusal) (s : State) :
    (s.pending = [] ∧ stepBy run s = .next s) ∨
      (∃ rest, s.pending = .reset :: rest ∧ stepBy run s = .next ({ s with pending := rest }).applyReset) ∨
      (∃ w rest, s.pending = .drive w :: rest ∧ stepBy run s = run (decode w) { s with pending := rest }) := by
  unfold stepBy State.takeMove
  rcases s.pending with _ | ⟨_ | w, rest⟩
  · exact .inl ⟨rfl, rfl⟩
  · exact .inr (.inl ⟨rest, rfl, rfl⟩)
  · exact .inr (.inr ⟨w, rest, rfl, rfl⟩)

/-- Everything a step of the machine of a configuration can do. -/
theorem stepWith_cases (c : AdmissibleConfig) (s : State) :
    (s.pending = [] ∧ stepWith c s = .next s) ∨
      (∃ rest, s.pending = .reset :: rest ∧ stepWith c s = .next ({ s with pending := rest }).applyReset) ∨
      (∃ w rest, s.pending = .drive w :: rest ∧ stepWith c s = execWith c (decode w) { s with pending := rest }) :=
  stepBy_cases (execWith c) s

/-- `ENC` answers a block with a key, and raises `E_NOKEY` without one, in every configuration. -/
theorem execEncWith_cases (c : AdmissibleConfig) (x : Block) (s : State) :
    (s.keyValid = true ∧ execEncWith c x s = .next (s.respond .ok (encblk c.sbox x s.roundKeys))) ∨
      (s.keyValid = false ∧ execEncWith c x s = .next (s.raise .noKey)) := by
  unfold execEncWith
  cases s.keyValid <;> simp

/-- `DEC` answers a block with a key, and raises `E_NOKEY` without one, in every configuration. -/
theorem execDecWith_cases (c : AdmissibleConfig) (x : Block) (s : State) :
    (s.keyValid = true ∧ execDecWith c x s = .next (s.respond .ok (decblk c.sbox x s.roundKeys))) ∨
      (s.keyValid = false ∧ execDecWith c x s = .next (s.raise .noKey)) := by
  unfold execDecWith
  cases s.keyValid <;> simp

/-- `ENC` in the default configuration. -/
theorem execEnc_cases (x : Block) (s : State) :
    (s.keyValid = true ∧ execEnc x s = .next (s.respond .ok (encblk sboxTable x s.roundKeys))) ∨
      (s.keyValid = false ∧ execEnc x s = .next (s.raise .noKey)) := execEncWith_cases config x s

/-- `DEC` in the default configuration. -/
theorem execDec_cases (x : Block) (s : State) :
    (s.keyValid = true ∧ execDec x s = .next (s.respond .ok (decblk sboxTable x s.roundKeys))) ∨
      (s.keyValid = false ∧ execDec x s = .next (s.raise .noKey)) := execDecWith_cases config x s

/-- Everything an instruction can do, in every configuration. -/
theorem execWith_cases (c : AdmissibleConfig) (i : Instr) (s : State) :
    (i.port ≠ .command ∧ ∃ r, execWith c i s = .next (s.driveResult r)) ∨
      (∃ k, i = .setkey k ∧
        execWith c i s = .next (((s.writeRoundKeys (keyexp c.sbox k)).setKeyValid).respond .ok 0x0000#16)) ∨
      (i.port = .command ∧ (∀ k, i ≠ .setkey k) ∧ ∃ st data, execWith c i s = .next (s.respond st data)) := by
  cases i
  case reserved data => exact .inr (.inr ⟨rfl, by simp, _, _, rfl⟩)
  case setkey k => exact .inr (.inl ⟨k, rfl, rfl⟩)
  case enc x =>
    refine .inr (.inr ⟨rfl, by simp, ?_⟩)
    rcases execEncWith_cases c x s with ⟨-, h⟩ | ⟨-, h⟩ <;> exact ⟨_, _, h⟩
  case dec x =>
    refine .inr (.inr ⟨rfl, by simp, ?_⟩)
    rcases execDecWith_cases c x s with ⟨-, h⟩ | ⟨-, h⟩ <;> exact ⟨_, _, h⟩
  all_goals exact .inl ⟨by simp [Instr.port], _, rfl⟩

/-- Everything an instruction can do in the default configuration. -/
theorem exec_cases (i : Instr) (s : State) :
    (i.port ≠ .command ∧ ∃ r, exec i s = .next (s.driveResult r)) ∨
      (∃ k, i = .setkey k ∧
        exec i s = .next (((s.writeRoundKeys (keyexp sboxTable k)).setKeyValid).respond .ok 0x0000#16)) ∨
      (i.port = .command ∧ (∀ k, i ≠ .setkey k) ∧ ∃ st data, exec i s = .next (s.respond st data)) := by
  rw [exec_eq_execWith]
  exact execWith_cases config i s

/-- A run goes on from the state its first step answers. -/
theorem run_next {s t : State} (n : Nat) (h : step s = .next t) :
    Host.Core.run Sys2Proof.core (n + 1) s = Host.Core.run Sys2Proof.core n t := by
  have h' : Sys2Proof.core.step s = .next t := h
  simp [Host.Core.run, h']

end Sys2Proof.Laws.Exec
end

