-- ==== Sys2Proof/Laws/PerInstr.lean ====
section
/-! SUPPORT. A property of every instruction as syntax, one lemma per constructor: its word travels on the port its row of
spec/opcode_table.json names and carries the fixed bits that row gives. -/

namespace Sys2Proof.Laws.FixedBits

/-- The fixed bits of a row, as the number above a bit position: the op of a command word (R47), the select bit of the
nibble substitution unit (R54), and no fixed bit elsewhere. -/
def fixedBits : Instr → Nat × Nat
  | .reserved _ => (16, 0b00)
  | .setkey _ => (16, 0b01)
  | .enc _ => (16, 0b10)
  | .dec _ => (16, 0b11)
  | .gfadd _ _ => (8, 0)
  | .gfmul _ _ => (8, 0)
  | .sbox _ => (4, 0)
  | .isbox _ => (4, 0)
  | .b2s _ => (16, 0)
  | .s2b _ => (16, 0)
  | .nsub _ => (16, 0)
  | .insub _ => (16, 1)
  | .shrow _ => (16, 0)
  | .mixcol _ => (16, 0)
  | .keyadd _ _ => (32, 0)
  | .keystep _ _ => (20, 0)
  | .keyexp _ => (16, 0)
  | .encblk _ _ _ _ => (64, 0)
  | .decblk _ _ _ _ => (64, 0)

/-- The word of `i` travels on the port of `i`, and its bits above the row's operands are the row's fixed bits. -/
def Statement (i : Instr) : Prop :=
  (encode i).port = i.port ∧ (encode i).bits.toNat / 2 ^ (fixedBits i).1 = (fixedBits i).2

/-- The field above `n` bits of operands. -/
theorem append_div {m n : Nat} (x : BitVec m) (y : BitVec n) : (x ++ y).toNat / 2 ^ n = x.toNat := by
  rw [BitVec.toNat_append, ← Nat.shiftRight_eq_div_pow, Nat.shiftRight_or_distrib, Nat.shiftLeft_shiftRight,
    Nat.shiftRight_eq_div_pow, Nat.div_eq_of_lt y.isLt, Nat.or_zero]

/-- A word has no bits above its width. -/
theorem toNat_div {n : Nat} (x : BitVec n) : x.toNat / 2 ^ n = 0 := Nat.div_eq_of_lt x.isLt

theorem reserved (data : BitVec 16) : Statement (.reserved data) := ⟨rfl, append_div 0b00#2 data⟩
theorem setkey (data : Key) : Statement (.setkey data) := ⟨rfl, append_div 0b01#2 data⟩
theorem enc (data : Block) : Statement (.enc data) := ⟨rfl, append_div 0b10#2 data⟩
theorem dec (data : Block) : Statement (.dec data) := ⟨rfl, append_div 0b11#2 data⟩
theorem gfadd (a b : Nibble) : Statement (.gfadd a b) := ⟨rfl, toNat_div (a ++ b)⟩
theorem gfmul (a b : Nibble) : Statement (.gfmul a b) := ⟨rfl, toNat_div (a ++ b)⟩
theorem sbox (n : Nibble) : Statement (.sbox n) := ⟨rfl, toNat_div n⟩
theorem isbox (n : Nibble) : Statement (.isbox n) := ⟨rfl, toNat_div n⟩
theorem b2s (x : Block) : Statement (.b2s x) := ⟨rfl, toNat_div x⟩
theorem s2b (s : StateBus) : Statement (.s2b s) := ⟨rfl, toNat_div s⟩
theorem nsub (s : StateBus) : Statement (.nsub s) := ⟨rfl, append_div 0b0#1 s⟩
theorem insub (s : StateBus) : Statement (.insub s) := ⟨rfl, append_div 0b1#1 s⟩
theorem shrow (s : StateBus) : Statement (.shrow s) := ⟨rfl, toNat_div s⟩
theorem mixcol (s : StateBus) : Statement (.mixcol s) := ⟨rfl, toNat_div s⟩
theorem keyadd (s k : StateBus) : Statement (.keyadd s k) := ⟨rfl, toNat_div (s ++ k)⟩
theorem keystep (p : StateBus) (rc : Nibble) : Statement (.keystep p rc) := ⟨rfl, toNat_div (rc ++ p)⟩
theorem keyexp (k : Key) : Statement (.keyexp k) := ⟨rfl, toNat_div k⟩
theorem encblk (x : Block) (k0 k1 k2 : StateBus) : Statement (.encblk x k0 k1 k2) :=
  ⟨rfl, toNat_div (x ++ k0 ++ k1 ++ k2)⟩
theorem decblk (x : Block) (k0 k1 k2 : StateBus) : Statement (.decblk x k0 k1 k2) :=
  ⟨rfl, toNat_div (x ++ k0 ++ k1 ++ k2)⟩

end Sys2Proof.Laws.FixedBits
end

