-- ==== Sys2Proof/Tests/Slice0.lean ====
section
/-! SUPPORT. Tests. Expected values are taken from 95_test_vectors.md and the examples of the rules named; words are written out
from the tables of R46, R47 and R54. Then, for each statement with hypotheses, a witness that meets them together. -/

namespace Sys2Proof.Tests

open Sys2Proof.Machine Sys2Proof.Safety

/-! ## Well-formedness: an ill-formed term for each check -/

/-- A table that is no bijection. -/
def flatTable : SBoxTable := Vector.replicate 16 0

theorem test_flat_table_is_no_bijection : flatTable.isBijection = false := by decide
theorem test_reference_table_is_a_bijection : sboxRef.isBijection = true := by decide
theorem test_flat_table_is_refused :
    ({ sbox := flatTable, latency := Config.freeLatency, lanes := 1 } : Config).checked = .error .sboxNotBijection := rfl
theorem test_zero_lanes_are_refused :
    ({ sbox := sboxRef, latency := Config.freeLatency, lanes := 0 } : Config).checked = .error .lanesNotPositive := rfl
theorem test_nineteen_bits_do_not_fit_the_command_port : Port.command.fits 0x40000 = false := by decide
theorem test_eighteen_bits_fit_the_command_port : Port.command.fits 0x3FFFF = true := by decide
theorem test_over_wide_word_is_refused_by_name : decodeRaw .sbox 0x10 = .error (.overWide .sbox) := rfl

/-! ## Decoding: a word of each row, written out bit by bit -/

theorem test_decode_reserved : decode ⟨.command, 0b00_1111111111111111#18⟩ = .reserved 0xFFFF := by decide
theorem test_decode_setkey : decode ⟨.command, 0b01_1100001111110000#18⟩ = .setkey 0xC3F0 := by decide
theorem test_decode_enc : decode ⟨.command, 0b10_1001110001100011#18⟩ = .enc 0x9C63 := by decide
theorem test_decode_dec : decode ⟨.command, 0b11_0111001011000110#18⟩ = .dec 0x72C6 := by decide
theorem test_decode_gfadd : decode ⟨.gfadd, 0b1001_1100#8⟩ = .gfadd 0x9 0xC := by decide
theorem test_decode_gfmul : decode ⟨.gfmul, 0b0011_0111#8⟩ = .gfmul 0x3 0x7 := by decide
theorem test_decode_sbox : decode ⟨.sbox, 0b0101#4⟩ = .sbox 0x5 := by decide
theorem test_decode_isbox : decode ⟨.isbox, 0b1110#4⟩ = .isbox 0xE := by decide
theorem test_decode_b2s : decode ⟨.b2s, 0b1001110001100011#16⟩ = .b2s 0x9C63 := by decide
theorem test_decode_s2b : decode ⟨.s2b, 0b0111001011000110#16⟩ = .s2b 0x72C6 := by decide
theorem test_decode_nsub : decode ⟨.nibbleSub, 0b0_0101111110010011#17⟩ = .nsub 0x5F93 := by decide
theorem test_decode_insub : decode ⟨.nibbleSub, 0b1_0001000001010100#17⟩ = .insub 0x1054 := by decide
theorem test_decode_shrow : decode ⟨.shrow, 0b0001001000110100#16⟩ = .shrow 0x1234 := by decide
theorem test_decode_mixcol : decode ⟨.mixcol, 0b0001000000000000#16⟩ = .mixcol 0x1000 := by decide
theorem test_decode_keyadd :
    decode ⟨.keyadd, 0b1001110001100011_1100001111110000#32⟩ = .keyadd 0x9C63 0xC3F0 := by decide
theorem test_decode_keystep : decode ⟨.keystep, 0b0010_0011000011111111#20⟩ = .keystep 0x30FF 0x2 := by decide
theorem test_decode_keyexp : decode ⟨.keyexp, 0b1100001111110000#16⟩ = .keyexp 0xC3F0 := by decide
theorem test_decode_encblk :
    decode ⟨.encblk, 0x9C63_C3F0_30FF_6696#64⟩ = .encblk 0x9C63 0xC3F0 0x30FF 0x6696 := by decide
theorem test_decode_decblk :
    decode ⟨.decblk, 0x72C6_C3F0_30FF_6696#64⟩ = .decblk 0x72C6 0xC3F0 0x30FF 0x6696 := by decide
theorem test_table_word_setkey : decodeTableWord 24 0x1C3F0 = some (.setkey 0xC3F0) := by decide
theorem test_table_word_too_wide : decodeTableWord 24 0x100000 = none := by decide

/-! ## One instruction on a small state -/

/-- A state with the schedule of the key `0xC3F0` as 95_test_vectors.md section 1.1 gives it. -/
def keyed : State := { State.reset with rk0 := 0xC3F0, rk1 := 0x30FF, rk2 := 0x6696, keyValid := true }

/-- The last response after an outcome. -/
def answer : Host.Outcome State Fault Refusal → Option ResponseWord
  | .next s => s.responses.getLast?
  | .fault _ => none
  | .refused _ => none

/-- The value on a result bus after an outcome. -/
def result : Host.Outcome State Fault Refusal → Option UnitResult
  | .next s => s.unitOut
  | .fault _ => none
  | .refused _ => none

/-- The round keys and `KEY_VALID` after an outcome. -/
def core : Host.Outcome State Fault Refusal → Option (StateBus × StateBus × StateBus × Bool)
  | .next s => some (s.rk0, s.rk1, s.rk2, s.keyValid)
  | .fault _ => none
  | .refused _ => none

-- 95_test_vectors.md section 2.8
theorem test_reserved_answers_illegal : answer (exec (.reserved 0xFFFF) keyed) = some 0x10000 := by decide
theorem test_setkey_loads : core (exec (.setkey 0xC3F0) State.reset) = some (0xC3F0, 0x30FF, 0x6696, true) := by decide
theorem test_setkey_answers_zero : answer (exec (.setkey 0x1234) keyed) = some 0x00000 := by decide
theorem test_enc_answers : answer (exec (.enc 0x9C63) keyed) = some 0x072C6 := by decide
theorem test_enc_without_key : answer (exec (.enc 0x9C63) State.reset) = some 0x20000 := by decide
theorem test_dec_answers : answer (exec (.dec 0x72C6) keyed) = some 0x09C63 := by decide
theorem test_dec_without_key : answer (exec (.dec 0x0000) State.reset) = some 0x20000 := by decide
-- sections 2.1 and 2.2
theorem test_gfadd : result (exec (.gfadd 0x9 0xC) State.reset) = some (.nibble 0x5) := by decide
theorem test_gfadd_no_carry : result (exec (.gfadd 0x8 0x8) State.reset) = some (.nibble 0x0) := by decide
theorem test_gfmul_two_reductions : result (exec (.gfmul 0xF 0xF) State.reset) = some (.nibble 0xA) := by decide
theorem test_gfmul_first_reduction : result (exec (.gfmul 0x8 0x2) State.reset) = some (.nibble 0x3) := by decide
-- section 2.3
theorem test_sbox : result (exec (.sbox 0x5) State.reset) = some (.nibble 0xF) := by decide
theorem test_sbox_last : result (exec (.sbox 0xF) State.reset) = some (.nibble 0x7) := by decide
theorem test_isbox : result (exec (.isbox 0xF) State.reset) = some (.nibble 0x5) := by decide
theorem test_isbox_first : result (exec (.isbox 0x0) State.reset) = some (.nibble 0xE) := by decide
-- section 2.4
theorem test_b2s : result (exec (.b2s 0x9C63) State.reset) = some (.state 0x9C63) := by decide
theorem test_b2s_row_one_column_zero : (b2s 0x0100).s10 = 1 := by decide
theorem test_s2b : result (exec (.s2b 0x72C6) State.reset) = some (.block 0x72C6) := by decide
theorem test_s2b_row_zero_column_one : s2b { s00 := 0, s01 := 1, s10 := 0, s11 := 0 } = 0x0010 := by decide
-- section 2.5
theorem test_nsub : result (exec (.nsub 0xCDEF) State.reset) = some (.state 0x5907) := by decide
theorem test_insub : result (exec (.insub 0x89AB) State.reset) = some (.state 0x7D96) := by decide
theorem test_shrow : result (exec (.shrow 0x0F00) State.reset) = some (.state 0x000F) := by decide
theorem test_mixcol_reads_old_elements : result (exec (.mixcol 0x1000) State.reset) = some (.state 0x3200) := by decide
theorem test_mixcol_general : result (exec (.mixcol 0x1234) State.reset) = some (.state 0x74DA) := by decide
theorem test_keyadd : result (exec (.keyadd 0x9C63 0xC3F0) State.reset) = some (.state 0x5F93) := by decide
-- section 2.6
theorem test_keystep_chains : result (exec (.keystep 0x1234 0xF) State.reset) = some (.state 0xCED9) := by decide
theorem test_keystep_second : result (exec (.keystep 0x9696 0x2) State.reset) = some (.state 0x06F9) := by decide
theorem test_keyexp : result (exec (.keyexp 0xA5A5) State.reset) = some (.schedule 0xA5A5_41BE_67C2) := by decide
-- section 2.7
theorem test_encblk :
    result (exec (.encblk 0xABCD 0x1234 0x2037 0x88BC) State.reset) = some (.block 0x5A27) := by decide
theorem test_decblk :
    result (exec (.decblk 0x857A 0xFFFF 0x9696 0x06F9) State.reset) = some (.block 0xFFFF) := by decide

/-! ## One step -/

theorem test_step_runs_the_fetched_word :
    core (step (State.reset.withFetchWord 24 0x1C3F0)) = some (0xC3F0, 0x30FF, 0x6696, true) := by decide
-- 95_test_vectors.md program P2, line 3, and the reset of line 8
theorem test_step_reserved : answer (step (State.reset.withFetchWord 24 0x00000)) = some 0x10000 := by decide
theorem test_step_reset_clears_key_valid : (keyed.pushMove .reset).takeMove = some (.reset, keyed) ∧
    keyed.applyReset.keyValid = false := by decide

/-! ## Witnesses: every statement's hypotheses are met together -/

/-- A state with one move to come. -/
def with1 (s : State) (m : Move) : State := s.pushMove m

theorem witness_StepRunsTheDecodedInstruction :
    (with1 keyed (.drive (encode (.enc 0x9C63)))).pending = .drive (encode (.enc 0x9C63)) :: [] ∧
    (with1 keyed .reset).pending = .reset :: [] ∧ keyed.pending = [] := by decide

theorem witness_OpAloneSelectsTheCommand :
    0x0FFFF#18 &&& 0x30000#18 = 0x00000#18 ∧ 0x1FFFF#18 &&& 0x30000#18 = 0x10000#18 ∧
    0x20000#18 &&& 0x30000#18 = 0x20000#18 ∧ 0x3FFFF#18 &&& 0x30000#18 = 0x30000#18 := by decide

theorem witness_ReservedWordRaisesIllegal : (0x0FFFF#18).extractLsb' 16 2 = 0b00#2 := by decide

theorem witness_OnlyReservedWordsAreIllegal :
    0x0FFFF < (0x10000#18).toNat ∧ (0x0FFFF#18).toNat ≤ 0x0FFFF := by decide

theorem witness_EncAnswersTheCiphertext : keyed.keyValid = true ∧ State.reset.keyValid = false := by decide

theorem witness_DecAnswersThePlaintext : keyed.keyValid = true ∧ State.reset.keyValid = false := by decide

theorem witness_NoKeyIsRaisedBeforeTheRegistersAreRead :
    (Instr.enc 0x9C63 = .enc 0x9C63 ∨ Instr.enc 0x9C63 = .dec 0x9C63) ∧
    (Instr.dec 0x0000 = .enc 0x0000 ∨ Instr.dec 0x0000 = .dec 0x0000) ∧ State.reset.keyValid = false := by decide

/-- One clause of the statement on each line: an error, a `SETKEY`, an `OK` of `ENC`, an `OK` of `DEC`. -/
theorem witness_EveryCommandAnswersOneResponseWord :
    (Instr.reserved 0).port = .command ∧ Status.illegal ≠ .ok ∧
    (Instr.setkey 0xFFFF).port = .command ∧ (Instr.enc 0xFFFF).port = .command ∧ (Instr.dec 0).port = .command ∧
    keyed.keyValid = true := by decide

theorem witness_ExactlyTwoExceptionsAreRaised :
    (Instr.reserved 0).port = .command ∧ (Instr.setkey 0).port = .command ∧
    (answer (exec (.enc 0) State.reset)).map statusOf = some 0b10#2 ∧
    (answer (exec (.reserved 0) keyed)).map statusOf = some 0b01#2 := by decide

theorem witness_AnErrorChangesNoState :
    exec (.reserved 0) keyed = .next (keyed.raise .illegal) ∧
    (keyed.raise .illegal).responses = keyed.responses ++ [0x10000#18] ∧ statusOf 0x10000#18 ≠ 0b00#2 :=
  ⟨rfl, by decide, by decide⟩

theorem witness_GfmulIsFieldMultiplication : (0xF : Nibble) ≠ 0 := by decide

theorem witness_TheDerivedTableInvertsEveryBijection : Function.Bijective sboxRef.lookup := by
  have h : ∀ n, sboxRef.inverse.lookup (sboxRef.lookup n) = n := by decide
  have h' : ∀ n, sboxRef.lookup (sboxRef.inverse.lookup n) = n := by decide
  exact ⟨Function.LeftInverse.injective h, Function.RightInverse.surjective h'⟩

theorem witness_NonBijectiveTableIsRefused : ¬ Function.Bijective flatTable.lookup := fun h =>
  absurd (@h.1 0x0#4 0x1#4 (by decide)) (by decide)

theorem witness_NonBijectiveTableIsRefused_admitted :
    ∃ a, ({ sbox := sboxRef, latency := Config.freeLatency, lanes := 1 } : Config).checked = .ok a ∧
      a.toConfig = { sbox := sboxRef, latency := Config.freeLatency, lanes := 1 } := ⟨config, rfl, rfl⟩

theorem witness_NonBijectiveTableIsRefused_lanes :
    Function.Bijective sboxRef.lookup ∧
    ({ sbox := sboxRef, latency := Config.freeLatency, lanes := 0 } : Config).lanes = 0 :=
  ⟨witness_TheDerivedTableInvertsEveryBijection, rfl⟩

/-- The identity table, a bijection other than the default. -/
def identityTable : SBoxTable := #v[0x0, 0x1, 0x2, 0x3, 0x4, 0x5, 0x6, 0x7, 0x8, 0x9, 0xA, 0xB, 0xC, 0xD, 0xE, 0xF]

/-- An admissible configuration other than the default: another table and two lanes. -/
def identityConfig : AdmissibleConfig where
  toConfig := { sbox := identityTable, latency := Config.freeLatency, lanes := 2 }
  ok := by decide

-- the lookup of entry 5 of the identity table, where the default table holds 0xF
theorem test_execWith_uses_its_own_table :
    result (execWith identityConfig (.sbox 0x5) State.reset) = some (.nibble 0x5) := by decide
-- R117 by hand: SBOX(0) = 0, n = (C ^ 0 ^ 1, 3 ^ D, F ^ E, 0 ^ 1)
theorem test_keystepWith_uses_its_own_table :
    result (execWith identityConfig (.keystep 0xC3F0 0x1) State.reset) = some (.state 0xDE11) := by decide

theorem witness_EveryAdmissibleTableMakesAMachine :
    Function.Bijective identityTable.lookup ∧ 0 < identityConfig.toConfig.lanes ∧
    ¬ (Function.Bijective flatTable.lookup ∧ 0 < identityConfig.toConfig.lanes) ∧
    readsTheTable (.gfmul 3 7) = false ∧ State.reset.keyValid = false ∧ keyed.keyValid = true := by
  have h : ∀ n, identityTable.lookup n = n := by decide
  refine ⟨?_, by decide, fun hf => absurd (@hf.1.1 0x0#4 0x1#4 (by decide)) (by decide), rfl, rfl, rfl⟩
  rw [funext h]
  exact Function.bijective_id

/-- One state for each kind of move the step clauses speak of. -/
theorem witness_EveryAdmissibleTableMakesAMachine_moves :
    (with1 keyed (.drive (encode (.sbox 0x5)))).pending = .drive (encode (.sbox 0x5)) :: [] ∧
    (with1 keyed .reset).pending = .reset :: [] ∧ keyed.pending = [] := by decide

-- the lookup of entry 5 of the identity table, by one step of the machine with that table
theorem test_stepWith_uses_its_own_table :
    result (stepWith identityConfig (with1 keyed (.drive ⟨.sbox, 0b0101#4⟩))) = some (.nibble 0x5) := by decide

/-- Two configurations with the same table and different lanes. -/
theorem witness_EveryAdmissibleTableMakesAMachine_lanes :
    ∃ c : AdmissibleConfig, c.sbox = config.sbox ∧ c.toConfig.lanes ≠ config.toConfig.lanes :=
  ⟨{ toConfig := { sbox := sboxRef, latency := Config.freeLatency, lanes := 2 }, ok := by decide }, rfl, by decide⟩

theorem witness_NibbleSubstitutionsUndoEachOther : sboxRef.isBijection = true := by decide

theorem witness_ShrowExchangesRowOne : (CipherState.ofBus 0xA5A5).s10 = (CipherState.ofBus 0xA5A5).s11 := by decide

theorem witness_DatapathsUndoEachOther : sboxRef.isBijection = true := by decide

theorem witness_UnitOperationsTouchNoArchitecturalState :
    (Instr.keyexp 0xC3F0).port ≠ .command ∧
    exec (.keyexp 0xC3F0) keyed = .next (keyed.driveResult (.schedule (keyexp sboxTable 0xC3F0).toBus)) :=
  ⟨by decide, rfl⟩

theorem witness_CommandsChangeOnlyTheirRegisters :
    (Instr.reserved 0).port = .command ∧ exec (.reserved 0) keyed = .next (keyed.raise .illegal) ∧
    ∀ k, Instr.reserved 0 ≠ .setkey k := ⟨rfl, rfl, fun k => by simp⟩

theorem witness_OnlySetkeyAndResetWriteTheCore :
    step (with1 keyed .reset) = .next keyed.applyReset ∧ ¬ SameCore (with1 keyed .reset) keyed.applyReset :=
  ⟨rfl, fun h => absurd h.2.2.2 (by decide)⟩

/-- The state after `SETKEY 0xC3F0` from reset. -/
def afterSetkey : State :=
  ((State.reset.writeRoundKeys (keyexp sboxTable 0xC3F0)).setKeyValid).respond .ok 0x0000#16

theorem step_setkey_from_reset : step (with1 State.reset (.drive (encode (.setkey 0xC3F0)))) = .next afterSetkey := by
  have h : decode (encode (.setkey 0xC3F0)) = .setkey 0xC3F0 := by decide
  change exec (decode (encode (.setkey 0xC3F0))) State.reset = _
  rw [h]
  rfl

/-- A `SETKEY` sets the bit, a reset clears it. -/
theorem witness_KeyValidIsSetBySetkeyAndClearedByReset :
    (step (with1 keyed .reset) = .next keyed.applyReset ∧ (with1 keyed .reset).pending = .reset :: [] ∧
      (with1 keyed .reset).keyValid = true ∧ keyed.applyReset.keyValid = false) ∧
    (step (with1 State.reset (.drive (encode (.setkey 0xC3F0)))) = .next afterSetkey ∧
      (with1 State.reset (.drive (encode (.setkey 0xC3F0)))).pending = .drive (encode (.setkey 0xC3F0)) :: [] ∧
      (with1 State.reset (.drive (encode (.setkey 0xC3F0)))).keyValid = false ∧ afterSetkey.keyValid = true) :=
  ⟨⟨rfl, rfl, rfl, rfl⟩, step_setkey_from_reset, rfl, rfl, rfl⟩

theorem witness_OnlyTheCoreStateMatters :
    SameCore keyed { keyed with responses := [0x10000#18], unitOut := some (.nibble 3) } ∧
    (Instr.gfmul 3 7).port ≠ .command := ⟨⟨rfl, rfl, rfl, rfl⟩, by decide⟩

theorem witness_BlockCommandsCommute : AsksForBlock (.enc 0x9C63) ∧ AsksForBlock (.dec 0x9C63) :=
  ⟨⟨_, .inl rfl⟩, ⟨_, .inr rfl⟩⟩

theorem witness_DecUndoesEncAtThePort : keyed.keyValid = true := by decide

theorem witness_ResetClearsKeyValidWithoutResponse : (with1 keyed .reset).pending = .reset :: [] := by decide

/-- An `ENC` word loads no key. -/
theorem enc_word_loads_no_key : ∀ m ∈ [Move.drive (encode (.enc 0x9C63))], m ≠ .reset ∧ ¬ LoadsKey m := by
  intro m hm
  rw [List.mem_singleton.1 hm]
  refine ⟨by decide, fun ⟨k, hk⟩ => ?_⟩
  injection hk with hk
  have h := congrArg (fun w => (w.bits.toNat / 2 ^ 16 : Nat)) hk
  have e : ((encode (.enc 0x9C63)).bits.toNat / 2 ^ 16 : Nat) = 2 := by decide
  have e' : ((encode (.setkey k)).bits.toNat / 2 ^ 16 : Nat) = 1 := (Laws.FixedBits.setkey k).2
  simp only [e, e'] at h
  exact absurd h (by decide)

theorem witness_ResetErasesTheKey :
    ({ keyed with pending := [.reset, .drive (encode (.enc 0x9C63))] } : State).pending =
      .reset :: [.drive (encode (.enc 0x9C63))] ∧
    (∀ m ∈ [Move.drive (encode (.enc 0x9C63))], ¬ LoadsKey m) ∧ AsksForBlock (.dec 0x0000) :=
  ⟨rfl, fun m hm => (enc_word_loads_no_key m hm).2, ⟨_, .inr rfl⟩⟩

theorem keyed_schedule : ScheduleFromKey keyed := fun _ => by decide

theorem witness_EveryStepKeepsTheSchedule : ScheduleFromKey keyed ∧ keyed.keyValid = true ∧ step keyed = .next keyed :=
  ⟨keyed_schedule, rfl, rfl⟩

theorem witness_EveryStepKeepsResponsesLegal :
    ResponsesLegal (keyed.raise .noKey) ∧ step (keyed.raise .noKey) = .next (keyed.raise .noKey) ∧
    (keyed.raise .noKey).responses ≠ [] := by
  refine ⟨fun r hr => ?_, rfl, by decide⟩
  rw [List.mem_singleton.1 (show r ∈ [responseWord .noKey 0] from hr)]
  decide

theorem witness_TheMachineRefinesTheCipherObject : Represents State.reset none ∧ Represents keyed (some 0xC3F0) :=
  ⟨rfl, rfl, by decide⟩

theorem witness_UnspecifiedRoundKeysAreNeverObserved :
    LooksAlike State.reset { State.reset with rk0 := 0x1234, rk2 := 0xFFFF, freeIndex := 7 } :=
  ⟨rfl, fun h => absurd h (by decide), rfl, rfl, rfl⟩

theorem witness_ANewKeyIsVisibleInFull :
    ({ State.reset with pending := [.drive (encode (.setkey 0xC3F0)), .drive (encode (.enc 0x9C63))] } : State).pending =
      .drive (encode (.setkey 0xC3F0)) :: [.drive (encode (.enc 0x9C63))] ∧
    ∀ m ∈ [Move.drive (encode (.enc 0x9C63))], m ≠ .reset ∧ ¬ LoadsKey m := ⟨rfl, enc_word_loads_no_key⟩

theorem witness_NewBuildsAnEngineWithItsKey :
    ({ keyed with pending := expand (.new 0xC3F0) } : State).pending = expand (.new 0xC3F0) ++ [] := by decide

theorem witness_SequencesAreAnsweredInOrderAndUndone :
    keyed.keyValid = true ∧
    ({ keyed with pending := expand (.encrypt [0x0000, 0xFFFF]) } : State).pending = expand (.encrypt [0x0000, 0xFFFF]) ∧
    ({ keyed with pending := expand (.decrypt [0x7BBA, 0x61BA]) } : State).pending =
      expand (.decrypt ([0x0000, 0xFFFF].map fun b => encblk sboxTable b keyed.roundKeys)) := by decide

/-- The empty sequence meets every clause. -/
theorem witness_SequencesAreAnsweredInOrderAndUndone_empty :
    keyed.keyValid = true ∧ keyed.pending = expand (.encrypt []) ∧ keyed.pending = expand (.decrypt []) ∧
    keyed.pending = expand (.decrypt (([] : List Block).map fun b => encblk sboxTable b keyed.roundKeys)) := by decide

theorem witness_NCommandWordsGiveNResponses :
    ({ State.reset with pending := [issue 0x00000, issue 0x1C3F0] } : State).pending =
      [0x00000, 0x1C3F0].map issue := by decide

end Sys2Proof.Tests
end

-- What admits a configuration (00_scope.md R6, 41_sbox.md R81).
section
/-! PROOF. The check of a table counts the occurrences of every nibble (R81); here it is tied to bijectivity of the lookup, by
way of the table's entries as a list: injective means no repeated entry, surjective means no missing one. -/

namespace Sys2Proof.Proofs.Admission

/-- A table's entries, in order, are the lookups at the addresses 0 to 15. -/
theorem toList_eq_ofFn_lookup (t : SBoxTable) : t.toList = List.ofFn (t.lookup ∘ BitVec.equivFin.symm) :=
  List.ext_getElem (by simp) fun i _ _ => by rw [List.getElem_ofFn]; rfl

theorem nodup_toList_iff_injective_lookup (t : SBoxTable) : t.toList.Nodup ↔ Function.Injective t.lookup := by
  rw [toList_eq_ofFn_lookup, List.nodup_ofFn]
  exact EquivLike.injective_comp BitVec.equivFin.symm t.lookup

theorem forall_mem_toList_iff_surjective_lookup (t : SBoxTable) :
    (∀ v, v ∈ t.toList) ↔ Function.Surjective t.lookup := by
  simp only [toList_eq_ofFn_lookup, List.mem_ofFn]
  exact EquivLike.surjective_comp BitVec.equivFin.symm t.lookup

/-- R81 as the check runs it, over nibbles instead of the numbers 0 to 15. -/
theorem isBijection_iff_count_eq_one (t : SBoxTable) :
    t.isBijection = true ↔ ∀ v : Nibble, t.toList.count v = 1 := by
  simp only [SBoxTable.isBijection, List.all_eq_true, List.mem_finRange, true_imp_iff, beq_iff_eq]
  exact ⟨fun h v => by simpa using h v.toFin, fun h i => h _⟩

/-- The executable check of R81 decides that the lookup is a bijection. -/
theorem isBijection_iff_bijective_lookup (t : SBoxTable) :
    t.isBijection = true ↔ Function.Bijective t.lookup := by
  rw [isBijection_iff_count_eq_one, Function.Bijective, ← nodup_toList_iff_injective_lookup,
    ← forall_mem_toList_iff_surjective_lookup, List.nodup_iff_count_eq_one]
  constructor
  · exact fun once => ⟨fun v _ => once v, fun v => List.count_pos_iff.1 (by simp [once v])⟩
  · exact fun ⟨once, all⟩ v => once v (all v)

theorem wf_iff (c : Config) : c.wf = true ↔ Function.Bijective c.sbox.lookup ∧ 0 < c.lanes := by
  simp [Config.wf, Config.hasLanes, isBijection_iff_bijective_lookup]

theorem checked_of_wf {c : Config} (h : c.wf = true) : c.checked = .ok ⟨c, h⟩ := dif_pos h

/-- A configuration is admitted as itself or not at all. -/
theorem admitted_iff_wf (c : Config) : (∃ a, c.checked = .ok a ∧ a.toConfig = c) ↔ c.wf = true := by
  constructor
  · rintro ⟨a, -, rfl⟩
    exact a.ok
  · exact fun h => ⟨⟨c, h⟩, checked_of_wf h, rfl⟩

/-- A table that is no bijection is named first, whatever the lanes. -/
theorem checked_of_not_bijective {c : Config} (h : ¬ Function.Bijective c.sbox.lookup) :
    c.checked = .error .sboxNotBijection := by
  have hwf : ¬ c.wf = true := fun hw => h ((wf_iff c).1 hw).1
  rw [← isBijection_iff_bijective_lookup] at h
  simp only [Config.checked, dif_neg hwf, if_neg h]

theorem checked_of_bijective_of_no_lanes {c : Config} (h : Function.Bijective c.sbox.lookup) (hl : c.lanes = 0) :
    c.checked = .error .lanesNotPositive := by
  have hwf : ¬ c.wf = true := fun hw => ((wf_iff c).1 hw).2.ne' hl
  rw [← isBijection_iff_bijective_lookup] at h
  simp only [Config.checked, dif_neg hwf, if_pos h]

/-- Settles O24: counting each nibble once is bijectivity of the lookup, and `checked` has one answer per case. -/
theorem nonBijectiveTableIsRefused : Obligations.NonBijectiveTableIsRefused := fun c =>
  ⟨(admitted_iff_wf c).trans (wf_iff c), checked_of_not_bijective, checked_of_bijective_of_no_lanes⟩

end Sys2Proof.Proofs.Admission
end

-- What is kept and written of the core's state (10_state.md).
section
/-! PROOF. One step of the machine, an equation per kind of move; who writes `RK[0..2]` and `KEY_VALID` (R12, R13, R18);
and that round keys no key is valid for are read by nothing (R21, R153, R173). -/

namespace Sys2Proof.Proofs.CoreState

open Sys2Proof.Machine Sys2Proof.Safety

/-! ## The word of `SETKEY` -/

theorem decode_encode_setkey (k : Key) : decode (encode (.setkey k)) = .setkey k := by
  have op : (0b01#2 ++ k : BitVec 18).extractLsb' 16 2 = 0b01#2 := BitVec.extractLsb'_append_eq_left
  have data : (0b01#2 ++ k : BitVec 18).extractLsb' 0 16 = k := BitVec.extractLsb'_append_eq_right
  simp [decode, encode, decodeCommand, op, data]

/-- A command word is its op field and its data field (R46). -/
theorem op_append_data (w : CommandWord) : w.extractLsb' 16 2 ++ w.extractLsb' 0 16 = w := by
  rw [BitVec.extractLsb'_append_extractLsb'_eq_extractLsb' (by decide)]
  exact BitVec.extractLsb'_eq_self

/-- The op field decides the row of R47. -/
theorem decodeCommand_eq_setkey {w : CommandWord} {k : Key} (h : decodeCommand w = .setkey k) :
    w = 0b01#2 ++ k := by
  simp only [decodeCommand] at h
  split at h
  case isTrue => cases h
  case isFalse =>
    split at h
    case isTrue op =>
      injection h with data
      rw [← op_append_data w, op, data]
    case isFalse => split at h <;> cases h

/-- Only the words of op `01` on the command port are decoded as `SETKEY` (R47, R54). -/
theorem eq_encode_of_decode_eq_setkey {w : BusWord} {k : Key} (h : decode w = .setkey k) :
    w = encode (.setkey k) := by
  obtain ⟨port, bits⟩ := w
  cases port
  case command => exact congrArg (BusWord.mk .command) (decodeCommand_eq_setkey h)
  case nibbleSub =>
    change decodeNibbleSub bits = _ at h
    unfold decodeNibbleSub at h
    split at h <;> cases h
  all_goals cases h

/-! ## One step, by the host's move (R186) -/

theorem step_of_idle {s : State} (h : s.pending = []) : step s = .next s := by
  simp [step, stepBy, State.takeMove, h]

theorem step_of_reset {s : State} {rest : List Move} (h : s.pending = .reset :: rest) :
    step s = .next ({ s with pending := rest }).applyReset := by
  simp [step, stepBy, State.takeMove, h]

theorem step_of_drive {s : State} {w : BusWord} {rest : List Move} (h : s.pending = .drive w :: rest) :
    step s = exec (decode w) { s with pending := rest } := by
  simp [step, stepBy, State.takeMove, h]

theorem step_of_setkey {s : State} {k : Key} {rest : List Move}
    (h : s.pending = .drive (encode (.setkey k)) :: rest) :
    step s =
      .next ((({ s with pending := rest }).writeRoundKeys (keyexp sboxTable k)).setKeyValid.respond .ok 0x0000#16) := by
  rw [step_of_drive h, decode_encode_setkey]
  rfl

/-! ## Who writes the core -/

/-- R12: an instruction other than `SETKEY` writes no round key and not `KEY_VALID`. -/
theorem exec_sameCore {i : Instr} {s t : State} (hi : ∀ k, i ≠ .setkey k) (h : exec i s = .next t) :
    SameCore s t := by
  rcases Laws.Exec.exec_cases i s with ⟨-, r, hr⟩ | ⟨k, hk, -⟩ | ⟨-, -, st, data, hr⟩
  · cases hr.symm.trans h
    exact ⟨rfl, rfl, rfl, rfl⟩
  · exact absurd hk (hi k)
  · cases hr.symm.trans h
    exact ⟨rfl, rfl, rfl, rfl⟩

/-- A step is a reset, or loads a key, or leaves the core as it is. -/
theorem step_core_cases {s t : State} (h : step s = .next t) :
    (∃ rest, s.pending = .reset :: rest) ∨
      (∃ k rest, s.pending = .drive (encode (.setkey k)) :: rest) ∨ SameCore s t := by
  match hp : s.pending with
  | [] =>
    cases (step_of_idle hp).symm.trans h
    exact .inr (.inr ⟨rfl, rfl, rfl, rfl⟩)
  | .reset :: rest => exact .inl ⟨rest, rfl⟩
  | .drive w :: rest =>
    by_cases hw : ∃ k, decode w = .setkey k
    · obtain ⟨k, hk⟩ := hw
      exact .inr (.inl ⟨k, rest, by rw [eq_encode_of_decode_eq_setkey hk]⟩)
    · have kept : SameCore { s with pending := rest } t :=
        exec_sameCore (fun k hk => hw ⟨k, hk⟩) ((step_of_drive hp).symm.trans h)
      exact .inr (.inr kept)

theorem step_keyValid_of_reset {s t : State} {rest : List Move} (h : step s = .next t)
    (hp : s.pending = .reset :: rest) : t.keyValid = false := by
  cases (step_of_reset hp).symm.trans h
  rfl

theorem step_keyValid_of_setkey {s t : State} {k : Key} {rest : List Move} (h : step s = .next t)
    (hp : s.pending = .drive (encode (.setkey k)) :: rest) : t.keyValid = true := by
  cases (step_of_setkey hp).symm.trans h
  rfl

/-- Settles O42: a command either loads a schedule and answers, or only answers. -/
theorem commandsChangeOnlyTheirRegisters : Obligations.CommandsChangeOnlyTheirRegisters := by
  intro i s t hport h
  rcases Laws.Exec.exec_cases i s with ⟨hunit, -⟩ | ⟨k, hk, hr⟩ | ⟨-, hi, st, data, hr⟩
  · exact absurd hport hunit
  · cases hr.symm.trans h
    exact ⟨rfl, rfl, rfl, ⟨_, rfl⟩, fun hi => absurd hk (hi k)⟩
  · have kept := exec_sameCore hi h
    cases hr.symm.trans h
    exact ⟨rfl, rfl, rfl, ⟨_, rfl⟩, fun _ => kept⟩

/-- Settles O43: of the three things a step can do to the core, two name their move and the third is excluded. -/
theorem onlySetkeyAndResetWriteTheCore : Obligations.OnlySetkeyAndResetWriteTheCore := by
  intro s t h changed
  rcases step_core_cases h with ⟨rest, hp⟩ | ⟨k, rest, hp⟩ | kept
  · exact ⟨_, rest, hp, .inl rfl⟩
  · exact ⟨_, rest, hp, .inr ⟨k, rfl⟩⟩
  · exact absurd kept changed

/-- Settles O44: the two moves that write the core fix `KEY_VALID`, so each change of it names its move. -/
theorem keyValidIsSetBySetkeyAndClearedByReset : Obligations.KeyValidIsSetBySetkeyAndClearedByReset := by
  refine ⟨rfl, fun s t h => ⟨fun _ => step_keyValid_of_reset h, fun _ _ => step_keyValid_of_setkey h, ?_, ?_⟩⟩
  · intro before after
    rcases step_core_cases h with cleared | ⟨k, rest, hp⟩ | ⟨-, -, -, kept⟩
    · exact cleared
    · simp [step_keyValid_of_setkey h hp] at after
    · simp [kept, after] at before
  · intro before after
    rcases step_core_cases h with ⟨rest, hp⟩ | loaded | ⟨-, -, -, kept⟩
    · simp [step_keyValid_of_reset h hp] at after
    · exact loaded
    · simp [kept, after] at before

/-! ## States that look alike

What each instruction does is one function of `KEY_VALID`, and of the round keys only where it is 1. -/

/-- What `i` does, the same from every state: it drives a unit's bus, loads a key, answers a fixed word, or answers a
function of the round keys with `E_NOKEY` standing in for it while there is no key (R153). -/
theorem exec_uniform (i : Instr) :
    (∃ r, ∀ s, exec i s = .next (s.driveResult r)) ∨
      (∃ ks, ∀ s, exec i s = .next ((s.writeRoundKeys ks).setKeyValid.respond .ok 0x0000#16)) ∨
      (∃ st data, ∀ s, exec i s = .next (s.respond st data)) ∨
      (∃ f : RoundKeys → Block, ∀ s, exec i s =
        .next (if s.keyValid then s.respond .ok (f s.roundKeys) else s.raise .noKey)) := by
  cases i
  case setkey k => exact .inr (.inl ⟨_, fun _ => rfl⟩)
  case reserved => exact .inr (.inr (.inl ⟨_, _, fun _ => rfl⟩))
  case enc x =>
    exact .inr (.inr (.inr ⟨encblk sboxTable x, fun s => (apply_ite Host.Outcome.next _ _ _).symm⟩))
  case dec x =>
    exact .inr (.inr (.inr ⟨decblk sboxTable x, fun s => (apply_ite Host.Outcome.next _ _ _).symm⟩))
  all_goals exact .inl ⟨_, fun _ => rfl⟩

section

variable {s s' : State} (h : LooksAlike s s')
include h

theorem looksAlike_withPending (rest : List Move) :
    LooksAlike { s with pending := rest } { s' with pending := rest } := by
  obtain ⟨valid, keys, -, responses, out⟩ := h
  exact ⟨valid, keys, rfl, responses, out⟩

theorem looksAlike_driveResult (r : UnitResult) : LooksAlike (s.driveResult r) (s'.driveResult r) := by
  obtain ⟨valid, keys, pending, responses, -⟩ := h
  exact ⟨valid, keys, pending, responses, rfl⟩

theorem looksAlike_respond (st : Status) (data : BitVec 16) : LooksAlike (s.respond st data) (s'.respond st data) := by
  obtain ⟨valid, keys, pending, responses, out⟩ := h
  exact ⟨valid, keys, pending, congrArg (· ++ [responseWord st data]) responses, out⟩

/-- A loaded key makes the round keys the same, whatever they were (R129). -/
theorem looksAlike_loadKey (ks : RoundKeys) :
    LooksAlike (s.writeRoundKeys ks).setKeyValid (s'.writeRoundKeys ks).setKeyValid := by
  obtain ⟨-, -, pending, responses, out⟩ := h
  exact ⟨rfl, fun _ => by simp, pending, responses, out⟩

/-- After a reset the round keys may differ, as `KEY_VALID` is 0 (R173). -/
theorem looksAlike_applyReset : LooksAlike s.applyReset s'.applyReset := by
  obtain ⟨-, -, pending, responses, out⟩ := h
  exact ⟨rfl, fun valid => absurd valid (by simp), pending, responses, out⟩

/-- `KEY_VALID` is tested before the round keys are read (R153). -/
theorem looksAlike_answerBlock (f : RoundKeys → Block) :
    LooksAlike (if s.keyValid then s.respond .ok (f s.roundKeys) else s.raise .noKey)
      (if s'.keyValid then s'.respond .ok (f s'.roundKeys) else s'.raise .noKey) := by
  have ⟨valid, keys, _⟩ := h
  rw [← valid]
  cases hv : s.keyValid
  case true =>
    rw [← keys hv]
    exact looksAlike_respond h _ _
  case false => exact looksAlike_respond h _ _

theorem exec_looksAlike (i : Instr) :
    ∃ t t', exec i s = .next t ∧ exec i s' = .next t' ∧ LooksAlike t t' := by
  rcases exec_uniform i with ⟨r, hr⟩ | ⟨ks, hr⟩ | ⟨st, data, hr⟩ | ⟨f, hr⟩
  · exact ⟨_, _, hr s, hr s', looksAlike_driveResult h r⟩
  · exact ⟨_, _, hr s, hr s', looksAlike_respond (looksAlike_loadKey h ks) _ _⟩
  · exact ⟨_, _, hr s, hr s', looksAlike_respond h st data⟩
  · exact ⟨_, _, hr s, hr s', looksAlike_answerBlock h f⟩

theorem step_looksAlike : ∃ t t', step s = .next t ∧ step s' = .next t' ∧ LooksAlike t t' := by
  have ⟨_, _, pending, _⟩ := h
  match hp : s.pending with
  | [] => exact ⟨s, s', step_of_idle hp, step_of_idle (pending ▸ hp), h⟩
  | .reset :: rest =>
    exact ⟨_, _, step_of_reset hp, step_of_reset (pending ▸ hp), looksAlike_applyReset (looksAlike_withPending h rest)⟩
  | .drive w :: rest =>
    rw [step_of_drive hp, step_of_drive (pending ▸ hp)]
    exact exec_looksAlike (looksAlike_withPending h rest) (decode w)

end

/-- Settles O55: looking alike is a simulation of the machine by itself, so induction on the number of steps. -/
theorem unspecifiedRoundKeysAreNeverObserved : Obligations.UnspecifiedRoundKeysAreNeverObserved := by
  intro n
  induction n with
  | zero => exact fun s s' h => ⟨s, s', rfl, rfl, h⟩
  | succ n ih =>
    intro s s' h
    obtain ⟨t, t', hs, hs', ht⟩ := step_looksAlike h
    rw [Laws.Exec.run_next n hs, Laws.Exec.run_next n hs']
    exact ih t t' ht

end Sys2Proof.Proofs.CoreState
end

-- In what order commands take effect, and what each can see (20_memory.md section 4).
section
/-! PROOF. An instruction sees of the machine's history only the schedule the core holds, if it holds one (R20, R40, R153); so
block commands may be exchanged, a list of moves is answered as by an object with an optional key, and each command word
gets one response (R38). -/

namespace Sys2Proof.Proofs.Visibility

open Sys2Proof.Machine Sys2Proof.Safety Sys2Proof.Proofs.CoreState

/-! ## The schedule held, and what a block command answers from it -/

/-- The schedule that `ENC` and `DEC` may read: none while `KEY_VALID = 0` (R153). -/
def heldSchedule (s : State) : Option RoundKeys := if s.keyValid then some s.roundKeys else none

/-- The response of a block command with the datapath `f`, from the schedule held (R130, R131). -/
def blockAnswer (f : RoundKeys → Block) : Option RoundKeys → ResponseWord
  | none => responseWord .noKey 0x0000#16
  | some ks => responseWord .ok (f ks)

/-- `s` with one more response. -/
def answered (s : State) (r : ResponseWord) : State := { s with responses := s.responses ++ [r] }

@[simp] theorem heldSchedule_answered (s : State) (r : ResponseWord) :
    heldSchedule (answered s r) = heldSchedule s := rfl

theorem answered_answered (s : State) (r q : ResponseWord) :
    answered (answered s r) q = { s with responses := s.responses ++ [r, q] } := by
  simp [answered]

@[simp] theorem heldSchedule_loadKey (s : State) (ks : RoundKeys) :
    heldSchedule (s.writeRoundKeys ks).setKeyValid = some ks := by
  simp [heldSchedule]

/-- Representing an object is holding the schedule of its key (R13, R14). -/
theorem represents_iff (s : State) (key : Option Key) :
    Represents s key ↔ heldSchedule s = key.map (keyexp sboxTable) := by
  cases key <;> simp [Represents, heldSchedule]

theorem heldSchedule_eq_of_sameCore {s s' : State} (h : SameCore s s') : heldSchedule s = heldSchedule s' := by
  obtain ⟨h0, h1, h2, hv⟩ := h
  simp [heldSchedule, State.roundKeys, h0, h1, h2, hv]

/-- Testing `KEY_VALID` and then reading the round keys is one answer, from the schedule held. -/
theorem answerBlock_eq (f : RoundKeys → Block) (s : State) :
    (if s.keyValid then s.respond .ok (f s.roundKeys) else s.raise .noKey) =
      answered s (blockAnswer f (heldSchedule s)) := by
  unfold heldSchedule
  cases s.keyValid <;> rfl

theorem exec_enc (x : Block) (s : State) :
    exec (.enc x) s = .next (answered s (blockAnswer (encblk sboxTable x) (heldSchedule s))) := by
  rw [← answerBlock_eq]
  exact (apply_ite Host.Outcome.next _ _ _).symm

theorem exec_dec (x : Block) (s : State) :
    exec (.dec x) s = .next (answered s (blockAnswer (decblk sboxTable x) (heldSchedule s))) := by
  rw [← answerBlock_eq]
  exact (apply_ite Host.Outcome.next _ _ _).symm

/-- A block command answers one response, a function of the schedule held alone. -/
theorem exec_of_asksForBlock {i : Instr} (hi : AsksForBlock i) :
    ∃ f, ∀ s, exec i s = .next (answered s (blockAnswer f (heldSchedule s))) := by
  obtain ⟨x, rfl | rfl⟩ := hi
  · exact ⟨_, exec_enc x⟩
  · exact ⟨_, exec_dec x⟩

/-- An earlier response leaves the schedule held as it is, so the answer is the same after it. -/
theorem exec_answered {i : Instr} {f : RoundKeys → Block}
    (hf : ∀ s, exec i s = .next (answered s (blockAnswer f (heldSchedule s)))) (s : State) (r : ResponseWord) :
    exec i (answered s r) = .next { s with responses := s.responses ++ [r, blockAnswer f (heldSchedule s)] } := by
  rw [hf, heldSchedule_answered, answered_answered]

/-! ## Noninterference (R20, R40) -/

/-- Only an instruction of the command port answers. -/
theorem port_eq_command_of_responses_ne {i : Instr} {s t : State} (h : exec i s = .next t)
    (hne : t.responses ≠ s.responses) : i.port = .command := by
  rcases Laws.Exec.exec_cases i s with ⟨-, r, hr⟩ | ⟨k, rfl, -⟩ | ⟨hp, -, -⟩
  · cases hr.symm.trans h
    exact absurd rfl hne
  · rfl
  · exact hp

/-- Settles O46: each of the four things an instruction can do is a function of the core; one that answers is a command,
so it owes no result. -/
theorem onlyTheCoreStateMatters : Obligations.OnlyTheCoreStateMatters := by
  intro i s s' same
  have isCommand {t : State} {r : ResponseWord} (h : exec i s = .next t) (ht : t.responses = s.responses ++ [r]) :
      i.port = .command := port_eq_command_of_responses_ne h (by simp [ht])
  rcases exec_uniform i with ⟨r, hr⟩ | ⟨ks, hr⟩ | ⟨st, data, hr⟩ | ⟨f, hr⟩
  · exact ⟨_, _, [], hr s, hr s', same, by simp, by simp, fun _ => rfl⟩
  · exact ⟨_, _, [_], hr s, hr s', ⟨rfl, rfl, rfl, rfl⟩, rfl, rfl, fun unit => absurd (isCommand (hr s) rfl) unit⟩
  · exact ⟨_, _, [_], hr s, hr s', same, rfl, rfl, fun unit => absurd (isCommand (hr s) rfl) unit⟩
  · simp only [answerBlock_eq] at hr
    refine ⟨_, _, [_], hr s, hr s', same, rfl, ?_, fun unit => absurd (isCommand (hr s) rfl) unit⟩
    rw [heldSchedule_eq_of_sameCore same]
    rfl

/-- Settles O47: each answer is a function of the schedule held, which the other command leaves as it is. -/
theorem blockCommandsCommute : Obligations.BlockCommandsCommute := by
  intro i j s hi hj
  obtain ⟨f, hf⟩ := exec_of_asksForBlock hi
  obtain ⟨g, hg⟩ := exec_of_asksForBlock hj
  exact ⟨_, _, hf s, exec_answered hg s _, hg s, exec_answered hf s _⟩

/-! ## The machine and the cipher object (R38) -/

theorem objectInstr_enc (key : Option Key) (x : Block) :
    objectInstr key (.enc x) = (key, [blockAnswer (encblk sboxTable x) (key.map (keyexp sboxTable))]) := by
  cases key <;> rfl

theorem objectInstr_dec (key : Option Key) (x : Block) :
    objectInstr key (.dec x) = (key, [blockAnswer (decblk sboxTable x) (key.map (keyexp sboxTable))]) := by
  cases key <;> rfl

/-- `t` is what becomes of `s` when the object it represents goes on to the key and the responses in `now`. -/
def Follows (s t : State) (now : Option Key × List ResponseWord) : Prop :=
  Represents t now.1 ∧ t.responses = s.responses ++ now.2

theorem exec_follows_objectInstr {s : State} {key : Option Key} (h : Represents s key) (i : Instr) :
    ∃ t, exec i s = .next t ∧ t.pending = s.pending ∧ Follows s t (objectInstr key i) := by
  have held := (represents_iff s key).1 h
  cases i
  case reserved => exact ⟨_, rfl, rfl, (represents_iff _ _).2 held, rfl⟩
  case setkey k => exact ⟨_, rfl, rfl, (represents_iff _ _).2 (heldSchedule_loadKey s _), rfl⟩
  case enc x =>
    rw [objectInstr_enc, ← held]
    exact ⟨_, exec_enc x s, rfl, (represents_iff _ _).2 held, rfl⟩
  case dec x =>
    rw [objectInstr_dec, ← held]
    exact ⟨_, exec_dec x s, rfl, (represents_iff _ _).2 held, rfl⟩
  all_goals exact ⟨_, rfl, rfl, (represents_iff _ _).2 held, (List.append_nil _).symm⟩

theorem step_follows_objectMove {s : State} {key : Option Key} (h : Represents s key) {m : Move} {rest : List Move}
    (hp : s.pending = m :: rest) :
    ∃ t, step s = .next t ∧ t.pending = rest ∧ Follows s t (objectMove key m) := by
  cases m with
  | reset => exact ⟨_, step_of_reset hp, rfl, rfl, (List.append_nil _).symm⟩
  | drive w =>
    rw [step_of_drive hp]
    have h' : Represents { s with pending := rest } key := (represents_iff _ _).2 ((represents_iff s key).1 h)
    exact exec_follows_objectInstr h' (decode w)

/-- Settles O54: each step follows the object's move, by induction on the moves to come. -/
theorem theMachineRefinesTheCipherObject : Obligations.TheMachineRefinesTheCipherObject := by
  intro s key h
  induction hp : s.pending generalizing s key with
  | nil => exact ⟨s, rfl, hp, h, (List.append_nil _).symm⟩
  | cons m rest ih =>
    obtain ⟨u, hstep, hrest, hu, hresp⟩ := step_follows_objectMove h hp
    obtain ⟨t, hrun, hdone, ht, hresp'⟩ := ih u _ hu hrest
    refine ⟨t, (Laws.Exec.run_next _ hstep).trans hrun, hdone, ht, ?_⟩
    rw [hresp', hresp, List.append_assoc]
    rfl

/-! ## One response for each command word (R38, R184) -/

theorem exec_completes (i : Instr) (s : State) : ∃ t, exec i s = .next t := by
  rcases Laws.Exec.exec_cases i s with ⟨_, _, h⟩ | ⟨_, _, h⟩ | ⟨_, _, _, _, h⟩
  all_goals exact ⟨_, h⟩

/-- Every row of R47 is a command. -/
theorem decodeCommand_port (w : CommandWord) : (decodeCommand w).port = .command := by
  simp only [decodeCommand]
  split_ifs <;> rfl

theorem step_of_issue {s : State} {w : CommandWord} {rest : List Move} (hp : s.pending = issue w :: rest) :
    ∃ t r, step s = .next t ∧ t.pending = rest ∧ t.responses = s.responses ++ [r] := by
  obtain ⟨t, h⟩ := exec_completes (decodeCommand w) { s with pending := rest }
  obtain ⟨hpending, -, -, ⟨r, hr⟩, -⟩ := commandsChangeOnlyTheirRegisters _ _ t (decodeCommand_port w) h
  exact ⟨t, r, (step_of_drive hp).trans h, hpending, hr⟩

/-- Settles O59: each command word adds one response, by induction on the words. -/
theorem nCommandWordsGiveNResponses : Obligations.NCommandWordsGiveNResponses := by
  intro s ws
  induction ws generalizing s with
  | nil => exact fun hp => ⟨s, rfl, hp, rfl⟩
  | cons w ws ih =>
    intro hp
    obtain ⟨u, r, hstep, hrest, hr⟩ := step_of_issue hp
    obtain ⟨t, hrun, hdone, hlen⟩ := ih u hrest
    refine ⟨t, (Laws.Exec.run_next _ hstep).trans hrun, hdone, ?_⟩
    rw [hlen, hr, List.length_append, List.length_singleton, List.length_cons]
    omega

end Sys2Proof.Proofs.Visibility
end

-- What the encoder and the decoder say of each other (30_encoding.md sections 2 to 4).
section
/-! PROOF. Every word is its fields put together (R46, R54), so decoding and encoding undo each other field by field; a
command word is one of four ops with its data (R47), and each statement about command words is checked at the four. -/

namespace Sys2Proof.Proofs.Encoding

open Sys2Proof.Machine

/-! ## The fields of a word -/

/-- The four operands of a datapath's bus, read back (R54). -/
theorem operands_append (x k0 k1 k2 : BitVec 16) :
    (x ++ k0 ++ k1 ++ k2 : BitVec 64).extractLsb' 48 16 = x ∧ (x ++ k0 ++ k1 ++ k2 : BitVec 64).extractLsb' 32 16 = k0 ∧
      (x ++ k0 ++ k1 ++ k2 : BitVec 64).extractLsb' 16 16 = k1 ∧ (x ++ k0 ++ k1 ++ k2 : BitVec 64).extractLsb' 0 16 = k2 := by
  refine ⟨?_, ?_, ?_, BitVec.extractLsb'_append_eq_right⟩
  · rw [BitVec.extractLsb'_append_eq_of_le (by decide), BitVec.extractLsb'_append_eq_of_le (by decide)]
    exact BitVec.extractLsb'_append_eq_left
  · rw [BitVec.extractLsb'_append_eq_of_le (by decide), BitVec.extractLsb'_append_eq_of_le (by decide)]
    exact BitVec.extractLsb'_append_eq_right
  · rw [BitVec.extractLsb'_append_eq_of_le (by decide)]
    exact BitVec.extractLsb'_append_eq_right

/-- The four operands of a datapath's bus, put together again. -/
theorem append_operands (w : BitVec 64) :
    w.extractLsb' 48 16 ++ w.extractLsb' 32 16 ++ w.extractLsb' 16 16 ++ w.extractLsb' 0 16 = w := by
  rw [BitVec.extractLsb'_append_extractLsb'_eq_extractLsb' (by decide),
    BitVec.extractLsb'_append_extractLsb'_eq_extractLsb' (by decide)]
  exact BitVec.extractLsb'_append_extractLsb'

/-! ## The command words -/

/-- The row of R47 that an op selects. -/
def commandOfOp (op : BitVec 2) (data : BitVec 16) : Instr :=
  if op = 0b00#2 then .reserved data
  else if op = 0b01#2 then .setkey data
  else if op = 0b10#2 then .enc data
  else .dec data

/-- Decoding examines the op and no other bit (R62). -/
theorem decode_command (op : BitVec 2) (data : BitVec 16) :
    decode ⟨.command, (op ++ data : BitVec 18)⟩ = commandOfOp op data := by
  have hop : (op ++ data).extractLsb' 16 2 = op := BitVec.extractLsb'_append_eq_left
  have hdata : (op ++ data).extractLsb' 0 16 = data := BitVec.extractLsb'_append_eq_right
  simp only [decode, decodeCommand, hop, hdata, commandOfOp]

theorem op_cases (op : BitVec 2) : op = 0b00#2 ∨ op = 0b01#2 ∨ op = 0b10#2 ∨ op = 0b11#2 := by
  revert op
  decide

theorem encode_commandOfOp (op : BitVec 2) (data : BitVec 16) :
    encode (commandOfOp op data) = ⟨.command, (op ++ data : BitVec 18)⟩ := by
  rcases op_cases op with rfl | rfl | rfl | rfl <;> rfl

/-- Every command word is an op and its data (R46). -/
theorem exists_op_data (w : CommandWord) : ∃ (op : BitVec 2) (data : BitVec 16), w = op ++ data :=
  ⟨_, _, (CoreState.op_append_data w).symm⟩

/-- `0x0FFFF` is the largest word of op `00` (R50). -/
theorem toNat_le_iff (op : BitVec 2) (data : BitVec 16) : (op ++ data).toNat ≤ 0x0FFFF ↔ op = 0b00#2 := by
  have hop : (op ++ data).toNat / 2 ^ 16 = op.toNat := Laws.FixedBits.append_div op data
  rw [← BitVec.toNat_inj, ← hop, BitVec.toNat_ofNat]
  omega

/-- Op `00` is the only reserved encoding (R50). -/
theorem commandOfOp_reserved_iff (op : BitVec 2) (data : BitVec 16) :
    (∃ d, commandOfOp op data = .reserved d) ↔ op = 0b00#2 := by
  rcases op_cases op with rfl | rfl | rfl | rfl <;> simp [commandOfOp]

/-! ## The two selects of the nibble substitution unit -/

theorem decode_nibbleSub (sel : BitVec 1) (s : StateBus) :
    decode ⟨.nibbleSub, (sel ++ s : BitVec 17)⟩ = if sel = 0b0#1 then .nsub s else .insub s := by
  have hsel : (sel ++ s).extractLsb' 16 1 = sel := BitVec.extractLsb'_append_eq_left
  have hs : (sel ++ s).extractLsb' 0 16 = s := BitVec.extractLsb'_append_eq_right
  simp only [decode, decodeNibbleSub, hsel, hs]

theorem encode_decodeNibbleSub (w : BitVec 17) : encode (decodeNibbleSub w) = ⟨.nibbleSub, w⟩ := by
  have hw : w.extractLsb' 16 1 ++ w.extractLsb' 0 16 = w := BitVec.extractLsb'_append_extractLsb'
  have bit : ∀ b : BitVec 1, b ≠ 0b0#1 → b = 0b1#1 := by decide
  unfold decodeNibbleSub
  split
  case isTrue sel =>
    rw [sel] at hw
    exact congrArg (BusWord.mk .nibbleSub) hw
  case isFalse sel =>
    rw [bit _ sel] at hw
    exact congrArg (BusWord.mk .nibbleSub) hw

/-! ## Both directions -/

/-- Settles O2: each field is read back from where the row puts it; a command or a nibble substitution also from its
fixed bits. -/
theorem decodeOfEncodeIsTheInstruction : Obligations.DecodeOfEncodeIsTheInstruction := by
  intro i
  cases i
  case reserved data => exact decode_command 0b00#2 data
  case setkey data => exact decode_command 0b01#2 data
  case enc data => exact decode_command 0b10#2 data
  case dec data => exact decode_command 0b11#2 data
  case nsub s => exact decode_nibbleSub 0b0#1 s
  case insub s => exact decode_nibbleSub 0b1#1 s
  case gfadd a b => exact congrArg₂ Instr.gfadd BitVec.extractLsb'_append_eq_left BitVec.extractLsb'_append_eq_right
  case gfmul a b => exact congrArg₂ Instr.gfmul BitVec.extractLsb'_append_eq_left BitVec.extractLsb'_append_eq_right
  case keyadd s k => exact congrArg₂ Instr.keyadd BitVec.extractLsb'_append_eq_left BitVec.extractLsb'_append_eq_right
  case keystep p rc =>
    exact congrArg₂ Instr.keystep BitVec.extractLsb'_append_eq_right BitVec.extractLsb'_append_eq_left
  case encblk x k0 k1 k2 =>
    obtain ⟨hx, h0, h1, h2⟩ := operands_append x k0 k1 k2
    simp only [encode, decode, hx, h0, h1, h2]
  case decblk x k0 k1 k2 =>
    obtain ⟨hx, h0, h1, h2⟩ := operands_append x k0 k1 k2
    simp only [encode, decode, hx, h0, h1, h2]
  all_goals rfl

/-- Settles O3: the fields that decoding takes from a word cover the word. -/
theorem encodeOfDecodeIsTheWord : Obligations.EncodeOfDecodeIsTheWord := by
  rintro ⟨port, w⟩
  cases port
  case command =>
    obtain ⟨op, data, rfl⟩ := exists_op_data w
    rw [decode_command, encode_commandOfOp]
  case nibbleSub => exact encode_decodeNibbleSub w
  case gfadd => exact congrArg (BusWord.mk .gfadd) BitVec.extractLsb'_append_extractLsb'
  case gfmul => exact congrArg (BusWord.mk .gfmul) BitVec.extractLsb'_append_extractLsb'
  case keyadd => exact congrArg (BusWord.mk .keyadd) BitVec.extractLsb'_append_extractLsb'
  case keystep => exact congrArg (BusWord.mk .keystep) BitVec.extractLsb'_append_extractLsb'
  case encblk => exact congrArg (BusWord.mk .encblk) (append_operands w)
  case decblk => exact congrArg (BusWord.mk .decblk) (append_operands w)
  all_goals rfl

/-! ## Match and mask (R47) -/

theorem and_mask (op : BitVec 2) (data : BitVec 16) : (op ++ data) &&& 0x30000#18 = op ++ 0x0000#16 := by
  have mask : 0x30000#18 = 0b11#2 ++ 0x0000#16 := by decide
  have op_and : op &&& 0b11#2 = op := BitVec.and_allOnes
  rw [mask, BitVec.and_append, op_and, BitVec.and_zero]

/-- Settles O5: the mask keeps the op, and of the four ops each matches its own row only. -/
theorem opAloneSelectsTheCommand : Obligations.OpAloneSelectsTheCommand := by
  intro w
  obtain ⟨op, data, rfl⟩ := exists_op_data w
  rw [and_mask, decode_command, BitVec.setWidth_append_eq_right]
  rcases op_cases op with rfl | rfl | rfl | rfl <;> simp [commandOfOp]

/-! ## The words of the host script (R60, R61) -/

/-- `OR` of a match value and an immediate puts the op before the data. -/
theorem or_setWidth (op : BitVec 2) (imm : BitVec 16) : (op ++ 0x0000#16) ||| imm.setWidth 18 = op ++ imm := by
  have imm_eq : imm.setWidth 18 = 0b00#2 ++ imm := BitVec.setWidth_eq_append (by decide)
  rw [imm_eq, BitVec.or_append, BitVec.or_zero, BitVec.zero_or]

theorem issue_setkeyWord (k : Key) : issue (setkeyWord k) = .drive (encode (.setkey k)) :=
  congrArg issue (or_setWidth 0b01#2 k)

theorem issue_encWord (x : Block) : issue (encWord x) = .drive (encode (.enc x)) :=
  congrArg issue (or_setWidth 0b10#2 x)

theorem issue_decWord (x : Block) : issue (decWord x) = .drive (encode (.dec x)) :=
  congrArg issue (or_setWidth 0b11#2 x)

/-- Settles O6: the three words are encodings, and the other statements expand as they are written. -/
theorem scriptStatementsExpandToTheirWords : Obligations.ScriptStatementsExpandToTheirWords := by
  refine ⟨fun k => ?_, fun x => ?_, fun x => ?_, fun _ => rfl, rfl, fun _ => rfl, fun bs => ?_, fun bs => ?_⟩
  · rw [expand, issue_setkeyWord]
  · rw [expand, issue_encWord]
  · rw [expand, issue_decWord]
  · exact List.map_eq_flatMap
  · exact List.map_eq_flatMap

end Sys2Proof.Proofs.Encoding
end

-- What a response word may be, and which command answers it (30_encoding.md section 3, R48 to R50).
section
/-! PROOF. The responses of an instruction are a function of the schedule held and of nothing else; which words it can
give is read off that function. -/

namespace Sys2Proof.Proofs.Responses

open Sys2Proof.Machine Sys2Proof.Safety
open Sys2Proof.Proofs.CoreState Sys2Proof.Proofs.Encoding Sys2Proof.Proofs.Visibility

/-! ## The fields of a response word -/

@[simp] theorem statusOf_responseWord (st : Status) (data : BitVec 16) : statusOf (responseWord st data) = st.code :=
  BitVec.extractLsb'_append_eq_left

@[simp] theorem dataOf_responseWord (st : Status) (data : BitVec 16) : dataOf (responseWord st data) = data :=
  BitVec.extractLsb'_append_eq_right

theorem code_ne_three (st : Status) : st.code ≠ 0b11#2 := by
  cases st <;> decide

/-- What `ResponsesLegal` asks of one response (R48, R49). -/
def LegalResponse (r : ResponseWord) : Prop := statusOf r ≠ 0b11#2 ∧ (statusOf r ≠ 0b00#2 → dataOf r = 0x0000#16)

theorem legalResponse_responseWord {st : Status} {data : BitVec 16} (h : st ≠ .ok → data = 0x0000#16) :
    LegalResponse (responseWord st data) := by
  rw [LegalResponse, statusOf_responseWord, dataOf_responseWord]
  exact ⟨code_ne_three st, fun hne => h fun ok => hne (congrArg Status.code ok)⟩

/-- Only the responses matter to the invariant, and each on its own. -/
theorem responsesLegal_of_append {s t : State} {out : List ResponseWord} (hs : ResponsesLegal s)
    (ht : t.responses = s.responses ++ out) (hout : ∀ r ∈ out, LegalResponse r) : ResponsesLegal t := by
  intro r hr
  rw [ht, List.mem_append] at hr
  exact hr.elim (hs r) (hout r)

/-! ## The responses of an instruction -/

/-- The responses of an instruction, from the schedule held: one for a command, none for a unit operation (R48). -/
def answers (held : Option RoundKeys) : Instr → List ResponseWord
  | .reserved _ => [responseWord .illegal 0x0000#16]
  | .setkey _ => [responseWord .ok 0x0000#16]
  | .enc x => [blockAnswer (encblk sboxTable x) held]
  | .dec x => [blockAnswer (decblk sboxTable x) held]
  | _ => []

theorem exec_answers (i : Instr) (s : State) :
    ∃ t, exec i s = .next t ∧ t.responses = s.responses ++ answers (heldSchedule s) i := by
  cases i
  case enc x => exact ⟨_, exec_enc x s, rfl⟩
  case dec x => exact ⟨_, exec_dec x s, rfl⟩
  case reserved => exact ⟨_, rfl, rfl⟩
  case setkey => exact ⟨_, rfl, rfl⟩
  all_goals exact ⟨_, rfl, (List.append_nil _).symm⟩

theorem answers_of_unit {i : Instr} (hi : i.port ≠ .command) (held : Option RoundKeys) : answers held i = [] := by
  cases i
  case reserved => exact absurd rfl hi
  case setkey => exact absurd rfl hi
  case enc => exact absurd rfl hi
  case dec => exact absurd rfl hi
  all_goals rfl

/-- A block command answers `OK` with the datapath's block, or an error without data. -/
theorem blockAnswer_eq_responseWord (f : RoundKeys → Block) (s : State) :
    ∃ st data, blockAnswer f (heldSchedule s) = responseWord st data ∧ (st ≠ .ok → data = 0x0000#16) ∧
      (st = .ok → data = f s.roundKeys) := by
  unfold heldSchedule
  cases s.keyValid
  case true => exact ⟨.ok, _, rfl, fun h => absurd rfl h, fun _ => rfl⟩
  case false => exact ⟨.noKey, _, rfl, fun _ => rfl, nofun⟩

/-- The status and the data of a command's one response (R48, R49). -/
theorem answers_of_command {i : Instr} (hi : i.port = .command) (s : State) :
    ∃ st data, answers (heldSchedule s) i = [responseWord st data] ∧
      (st ≠ .ok → data = 0x0000#16) ∧
      (∀ k, i = .setkey k → st = .ok ∧ data = 0x0000#16) ∧
      (∀ x, i = .enc x → st = .ok → data = encblk sboxTable x s.roundKeys) ∧
      (∀ x, i = .dec x → st = .ok → data = decblk sboxTable x s.roundKeys) := by
  cases i
  case reserved => exact ⟨_, _, rfl, fun _ => rfl, nofun, nofun, nofun⟩
  case setkey => exact ⟨_, _, rfl, fun _ => rfl, fun _ _ => ⟨rfl, rfl⟩, nofun, nofun⟩
  case enc x =>
    obtain ⟨st, data, hword, herror, hok⟩ := blockAnswer_eq_responseWord (encblk sboxTable x) s
    exact ⟨st, data, congrArg ([·]) hword, herror, nofun, by rintro _ ⟨⟩; exact hok, nofun⟩
  case dec x =>
    obtain ⟨st, data, hword, herror, hok⟩ := blockAnswer_eq_responseWord (decblk sboxTable x) s
    exact ⟨st, data, congrArg ([·]) hword, herror, nofun, nofun, by rintro _ ⟨⟩; exact hok⟩
  all_goals cases hi

theorem legalResponse_of_mem_answers (i : Instr) (s : State) : ∀ r ∈ answers (heldSchedule s) i, LegalResponse r := by
  by_cases hi : i.port = .command
  · obtain ⟨st, data, hone, herror, -⟩ := answers_of_command hi s
    rw [hone]
    exact List.forall_mem_singleton.2 (legalResponse_responseWord herror)
  · rw [answers_of_unit hi]
    exact List.forall_mem_nil _

/-- Settles O13: the one response of a command, and its fields read back. -/
theorem everyCommandAnswersOneResponseWord : Obligations.EveryCommandAnswersOneResponseWord := by
  refine ⟨fun i s hi => ?_, fun st data => ?_, rfl, rfl, rfl⟩
  · obtain ⟨t, hexec, ht⟩ := exec_answers i s
    obtain ⟨st, data, hone, hdata⟩ := answers_of_command hi s
    exact ⟨t, st, data, hexec, hone ▸ ht, hdata⟩
  · exact ⟨statusOf_responseWord st data, dataOf_responseWord st data, code_ne_three st⟩

/-- Settles O52: a step adds no response, or those of the instruction it executes, and these are legal. -/
theorem everyStepKeepsResponsesLegal : Obligations.EveryStepKeepsResponsesLegal := by
  intro s t hs h
  match hp : s.pending with
  | [] =>
    cases (step_of_idle hp).symm.trans h
    exact hs
  | .reset :: rest =>
    cases (step_of_reset hp).symm.trans h
    exact hs
  | .drive w :: rest =>
    obtain ⟨u, hexec, hu⟩ := exec_answers (decode w) { s with pending := rest }
    cases hexec.symm.trans ((step_of_drive hp).symm.trans h)
    exact responsesLegal_of_append hs hu (legalResponse_of_mem_answers _ _)

/-! ## The words answered `E_ILLEGAL` (R50) -/

/-- A block command is never answered `E_ILLEGAL`. -/
theorem blockAnswer_ne_illegal (f : RoundKeys → Block) (held : Option RoundKeys) :
    blockAnswer f held ≠ responseWord .illegal 0x0000#16 := by
  refine ne_of_apply_ne statusOf ?_
  cases held <;> simp [blockAnswer, Status.code]

theorem answers_eq_illegal_iff (held : Option RoundKeys) (i : Instr) :
    answers held i = [responseWord .illegal 0x0000#16] ↔ ∃ data, i = .reserved data := by
  cases i
  case reserved data => exact ⟨fun _ => ⟨data, rfl⟩, fun _ => rfl⟩
  case setkey k => simp [answers, responseWord, Status.code]
  case enc x => simp [answers, blockAnswer_ne_illegal]
  case dec x => simp [answers, blockAnswer_ne_illegal]
  all_goals simp [answers]

/-- Exactly a reserved command is answered with the word `0x10000`. -/
theorem exec_illegal_iff (i : Instr) (s : State) :
    (∃ t, exec i s = .next t ∧ t.responses = s.responses ++ [0x10000#18]) ↔ ∃ data, i = .reserved data := by
  rw [← answers_eq_illegal_iff (heldSchedule s)]
  obtain ⟨u, hexec, hu⟩ := exec_answers i s
  constructor
  · rintro ⟨t, h, ht⟩
    cases hexec.symm.trans h
    exact List.append_cancel_left (hu.symm.trans ht)
  · exact fun hone => ⟨u, hexec, hone ▸ hu⟩

/-- Settles O8: a word is at most `0x0FFFF` exactly when its op is `00`, and every other op names its command. -/
theorem onlyReservedWordsAreIllegal : Obligations.OnlyReservedWordsAreIllegal := by
  intro w s
  obtain ⟨op, data, rfl⟩ := exists_op_data w
  rw [exec_illegal_iff, decode_command, commandOfOp_reserved_iff, toNat_le_iff]
  refine ⟨Iff.rfl, fun large => ⟨data, ?_⟩⟩
  have hop : op ≠ 0b00#2 := mt (toNat_le_iff op data).2 (Nat.not_le.2 large)
  rcases op_cases op with h | rfl | rfl | rfl
  · exact absurd h hop
  · exact .inl rfl
  · exact .inr (.inl rfl)
  · exact .inr (.inr rfl)

end Sys2Proof.Proofs.Responses
end

-- The Field Arithmetic unit (40_field_arithmetic.md), and the frame of every unit operation.
section
/-! PROOF. A unit operation drives its result bus and nothing else (R65). The multiplier's four iterations (R67) add up the
multiples `a`, `a x`, `a x^2`, `a x^3` that the bits of `b` select; bit by bit that sum is the schoolbook product (R68). -/

namespace Sys2Proof.Proofs.FieldArithmetic

open Sys2Proof.Machine Sys2Proof.Safety

/-! ## The frame of the unit operations -/

/-- Settles O41: of the three things an instruction can do, only driving a result bus is done off the command port. -/
theorem unitOperationsTouchNoArchitecturalState : Obligations.UnitOperationsTouchNoArchitecturalState := by
  intro i s t hunit h
  rcases Laws.Exec.exec_cases i s with ⟨-, r, hr⟩ | ⟨k, rfl, -⟩ | ⟨hcommand, -⟩
  · cases hr.symm.trans h
    exact ⟨rfl, rfl, rfl, rfl, rfl, rfl, rfl⟩
  · exact absurd rfl hunit
  · exact absurd hcommand hunit

/-! ## Addition (R66) -/

/-- Settles O17: the laws are those of XOR on bit vectors. -/
theorem gfaddIsXor : Obligations.GfaddIsXor :=
  ⟨fun _ _ _ => ⟨rfl, rfl⟩,
    fun a b c => ⟨BitVec.xor_comm a b, BitVec.xor_assoc a b c, BitVec.xor_self, BitVec.xor_zero⟩, rfl⟩

/-! ## A nibble and its four bits -/

/-- The nibble `{r3, r2, r1, r0}`, put together as the oracle does (R68). -/
def ofBits (r3 r2 r1 r0 : Bool) : Nibble :=
  BitVec.ofBool r3 ++ BitVec.ofBool r2 ++ BitVec.ofBool r1 ++ BitVec.ofBool r0

theorem nibble_ext {v w : Nibble} (h0 : v[0] = w[0]) (h1 : v[1] = w[1]) (h2 : v[2] = w[2]) (h3 : v[3] = w[3]) :
    v = w :=
  BitVec.eq_of_getElem_eq fun
    | 0, _ => h0
    | 1, _ => h1
    | 2, _ => h2
    | 3, _ => h3

theorem bits_ofBits : ∀ r3 r2 r1 r0 : Bool,
    (ofBits r3 r2 r1 r0)[0] = r0 ∧ (ofBits r3 r2 r1 r0)[1] = r1 ∧
      (ofBits r3 r2 r1 r0)[2] = r2 ∧ (ofBits r3 r2 r1 r0)[3] = r3 := by decide

theorem eq_ofBits {v : Nibble} {r3 r2 r1 r0 : Bool} (h0 : v[0] = r0) (h1 : v[1] = r1) (h2 : v[2] = r2)
    (h3 : v[3] = r3) : v = ofBits r3 r2 r1 r0 := by
  obtain ⟨b0, b1, b2, b3⟩ := bits_ofBits r3 r2 r1 r0
  exact nibble_ext (h0.trans b0.symm) (h1.trans b1.symm) (h2.trans b2.symm) (h3.trans b3.symm)

/-! ## Multiplication (R67, R68) -/

/-- `a` times one coefficient: `a` where the bit is set, and 0 where it is not. -/
def scale (c : Bool) (a : Nibble) : Nibble := if c then a else 0#4

@[simp] theorem getElem_scale (c : Bool) (a : Nibble) (i : Nat) (hi : i < 4) : (scale c a)[i] = (c && a[i]) := by
  cases c <;> simp [scale]

/-- `a` times `x`: the shift, with `x^4 = x + 1` (R68). -/
def timesX (a : Nibble) : Nibble := ofBits a[2] a[1] (a[0] ^^ a[3]) a[3]

@[simp] theorem getElem_timesX_zero (a : Nibble) : (timesX a)[0] = a[3] := (bits_ofBits _ _ _ _).1
@[simp] theorem getElem_timesX_one (a : Nibble) : (timesX a)[1] = (a[0] ^^ a[3]) := (bits_ofBits _ _ _ _).2.1
@[simp] theorem getElem_timesX_two (a : Nibble) : (timesX a)[2] = a[1] := (bits_ofBits _ _ _ _).2.2.1
@[simp] theorem getElem_timesX_three (a : Nibble) : (timesX a)[3] = a[2] := (bits_ofBits _ _ _ _).2.2.2

/-- The mask made from the lowest bit of `b` (R67). -/
theorem maskOfBit_zero : ∀ b : Nibble, maskOfBit 4 b 0 = if b[0] then BitVec.allOnes 4 else 0#4 := by decide

theorem and_maskOfBit_zero (a b : Nibble) : a &&& maskOfBit 4 b 0 = scale b[0] a := by
  rw [maskOfBit_zero]
  cases b[0]
  case true => exact BitVec.and_allOnes
  case false => exact BitVec.and_zero

/-- The shift at 5 bits and the reduction under the mask of bit 3 (R67). -/
theorem shift_reduce_eq_timesX :
    ∀ a : Nibble, ((a ++ 0b0#1) ^^^ (poly &&& maskOfBit 5 a 3)).extractLsb' 0 4 = timesX a := by decide

theorem gfMulStep_eq (r : MulRegs) : gfMulStep r = ⟨r.acc ^^^ scale r.b[0] r.a, timesX r.a, r.b >>> 1⟩ := by
  rw [gfMulStep, and_maskOfBit_zero, shift_reduce_eq_timesX]

/-- The multiplier adds up the multiples of `a` that the bits of `b` select. -/
theorem gfMul_eq_sum (a b : Nibble) :
    gfMul a b = scale b[0] a ^^^ scale b[1] (timesX a) ^^^ scale b[2] (timesX (timesX a)) ^^^
      scale b[3] (timesX (timesX (timesX a))) := by
  simp [gfMul, gfMulIterations, gfMulStep_eq]

/-- Bit `k` of the sum is the XOR of the products `a[i] & b[j]` that the oracle collects there. -/
theorem gfMul_eq_gfMulSchoolbook (a b : Nibble) : gfMul a b = gfMulSchoolbook a b := by
  rw [gfMul_eq_sum]
  have comm : Std.Commutative Bool.xor := ⟨Bool.xor_comm⟩
  apply eq_ofBits
  all_goals
    simp only [BitVec.getElem_xor, getElem_scale, getElem_timesX_zero, getElem_timesX_one, getElem_timesX_two,
      getElem_timesX_three, Bool.and_xor_distrib_left]
    ac_rfl

/-- Settles O18: the result bus holds the product of the iterations, which is the schoolbook product. -/
theorem gfmulIsTheSchoolbookProduct : Obligations.GfmulIsTheSchoolbookProduct := by
  intro a b s
  rw [← gfMul_eq_gfMulSchoolbook]
  exact ⟨rfl, rfl⟩

end Sys2Proof.Proofs.FieldArithmetic
end

-- The Substitution Tables unit (41_sbox.md).
section
/-! PROOF. The loop of R83 writes the address `n` at the entry `SBOX[n]`; an injective table hits no entry twice, so every
address written stays, and the table derived inverts every bijection (R81, R83). -/

namespace Sys2Proof.Proofs.SubstitutionTables

open Sys2Proof.Machine

/-- The address the loop of R83 calls `n`. -/
theorem getElem_fin_eq_lookup (t : SBoxTable) (a : Fin 16) : t[a] = t.lookup (BitVec.ofNat 4 a.val) := by
  simp [SBoxTable.lookup]

theorem lookup_set_toNat (t : SBoxTable) (n v m : Nibble) :
    SBoxTable.lookup (t.set n.toNat v n.isLt) m = if n = m then v else t.lookup m := by
  simp [SBoxTable.lookup, Vector.getElem_set, BitVec.toNat_inj]

/-- One turn of the loop writes the entry `SBOX[n]` and no other (R83). -/
theorem lookup_invertEntry (t inv : SBoxTable) (a : Fin 16) (m : Nibble) :
    (t.invertEntry inv a).lookup m =
      if t.lookup (BitVec.ofNat 4 a.val) = m then BitVec.ofNat 4 a.val else inv.lookup m := by
  rw [SBoxTable.invertEntry, lookup_set_toNat, getElem_fin_eq_lookup]

/-- For an injective table, no turn of the loop undoes another: the last turn is the one for the address asked for, or
it wrote some other entry. -/
theorem lookup_foldl_invertEntry {t : SBoxTable} (inj : Function.Injective t.lookup) (inv : SBoxTable)
    (turns : List (Fin 16)) :
    ∀ a ∈ turns, (turns.foldl t.invertEntry inv).lookup (t.lookup (BitVec.ofNat 4 a.val)) = BitVec.ofNat 4 a.val := by
  induction turns using List.reverseRecOn with
  | nil => exact List.forall_mem_nil _
  | append_singleton turns last ih =>
    intro a ha
    rw [List.foldl_concat, lookup_invertEntry]
    split
    case isTrue hit => exact inj hit
    case isFalse miss =>
      have before : a ∈ turns := (List.mem_append.1 ha).resolve_right fun h => miss (by rw [List.mem_singleton.1 h])
      exact ih a before

/-- `ISBOX(SBOX(n)) = n` for every injective table (R83, R84). -/
theorem lookup_inverse_lookup {t : SBoxTable} (inj : Function.Injective t.lookup) (n : Nibble) :
    t.inverse.lookup (t.lookup n) = n := by
  simpa [SBoxTable.inverse] using lookup_foldl_invertEntry inj _ _ n.toFin (List.mem_finRange _)

/-- `SBOX(ISBOX(m)) = m` for every bijection: `m` is some entry `SBOX[n]` (R83, R84). -/
theorem lookup_lookup_inverse {t : SBoxTable} (bij : Function.Bijective t.lookup) (m : Nibble) :
    t.lookup (t.inverse.lookup m) = m := by
  obtain ⟨n, rfl⟩ := bij.surjective m
  rw [lookup_inverse_lookup bij.injective]

/-- The configured table is a bijection, as no other is admitted (R81). -/
theorem bijective_lookup_sboxTable : Function.Bijective sboxTable.lookup :=
  (Admission.isBijection_iff_bijective_lookup _).1 (Laws.Exec.sbox_isBijection config)

/-- Settles O21: `SBOX` drives its bus with the entry looked up (R81). -/
theorem sboxReadsTheForwardTable : Obligations.SboxReadsTheForwardTable :=
  fun _ _ => ⟨rfl, rfl⟩

/-- Settles O22: the configured table is a bijection, so the derived table inverts it on both sides. -/
theorem isboxReadsTheInverseTable : Obligations.IsboxReadsTheInverseTable := fun n _ =>
  ⟨rfl, rfl, lookup_inverse_lookup bijective_lookup_sboxTable.injective n,
    lookup_lookup_inverse bijective_lookup_sboxTable n, by decide, by decide⟩

end Sys2Proof.Proofs.SubstitutionTables
end

-- The State Representation unit (42_state_converter.md).
section
/-! PROOF. Both converters keep the layout of the state bus (R91 to R93), which loses nothing in either direction; so each
undoes the other (R94), and on the bus each is the identity. -/

namespace Sys2Proof.Proofs.StateConverter

open Sys2Proof.Machine Sys2Proof.Laws.Operands

@[simp] theorem s2b_b2s (x : Block) : s2b (b2s x) = x := by
  rw [b2s_eq_ofBus, s2b_eq_toBus, toBus_ofBus]

@[simp] theorem b2s_s2b (c : CipherState) : b2s (s2b c) = c := by
  rw [s2b_eq_toBus, b2s_eq_ofBus, ofBus_toBus]

/-- The bus that carries the state of a block carries the block's own bits (R92). -/
theorem exec_b2s (x : Block) (s : State) : exec (.b2s x) s = .next (s.driveResult (.state x)) :=
  calc exec (.b2s x) s
    _ = .next (s.driveResult (.state (b2s x).toBus)) := rfl
    _ = .next (s.driveResult (.state x)) := by rw [← s2b_eq_toBus, s2b_b2s]

/-- The block of the state that a bus carries is the bus's own bits (R93). -/
theorem exec_s2b (w : StateBus) (s : State) : exec (.s2b w) s = .next (s.driveResult (.block w)) :=
  calc exec (.s2b w) s
    _ = .next (s.driveResult (.block (s2b (.ofBus w)))) := rfl
    _ = .next (s.driveResult (.block w)) := by rw [s2b_eq_toBus, toBus_ofBus]

/-- Settles O25: the result buses by the equations of the two instructions, the elements and the examples by the
definitions of the converters. -/
theorem convertersRegroupTheWires : Obligations.ConvertersRegroupTheWires :=
  ⟨fun x s => ⟨rfl, exec_b2s x s, rfl, rfl, rfl, rfl⟩, fun w s => ⟨rfl, exec_s2b w s⟩, fun _ => rfl,
    by decide, by decide⟩

/-- Settles O26: the layout of R91 read back is the layout written, in both directions. -/
theorem convertersAreMutuallyInverse : Obligations.ConvertersAreMutuallyInverse :=
  ⟨s2b_b2s, b2s_s2b⟩

end Sys2Proof.Proofs.StateConverter
end

-- The Round Transforms unit (43_round_transforms.md).
section
/-! PROOF. The nibble substitutions and `SHROW` choose each element of their result on its own (R99, R100, R102). `KEYADD`
on the state buses is one XOR (R107), and a bus determines its state, so the laws of `KEYADD` are those of XOR (R108). -/

namespace Sys2Proof.Proofs.RoundTransforms

open Sys2Proof.Machine Sys2Proof.Laws.Operands

/-! ## `NSUB` and `INSUB` (R99, R100) -/

theorem toBus_nsub_ofBus (t : SBoxTable) (w : StateBus) :
    (nsub t (.ofBus w)).toBus = t.lookup (w.extractLsb' 12 4) ++ t.lookup (w.extractLsb' 8 4) ++
      t.lookup (w.extractLsb' 4 4) ++ t.lookup (w.extractLsb' 0 4) := rfl

theorem toBus_insub_ofBus (t : SBoxTable) (w : StateBus) :
    (insub t (.ofBus w)).toBus = t.inverse.lookup (w.extractLsb' 12 4) ++ t.inverse.lookup (w.extractLsb' 8 4) ++
      t.inverse.lookup (w.extractLsb' 4 4) ++ t.inverse.lookup (w.extractLsb' 0 4) := rfl

theorem exec_nsub (w : StateBus) (s : State) :
    exec (.nsub w) s = .next (s.driveResult (.state (nsub sboxTable (.ofBus w)).toBus)) := rfl

theorem exec_insub (w : StateBus) (s : State) :
    exec (.insub w) s = .next (s.driveResult (.state (insub sboxTable (.ofBus w)).toBus)) := rfl

/-- Settles O27: each instruction drives its bus with its transform of the operand, which is four lookups. -/
theorem nibbleSubstitutionLooksUpFourNibbles : Obligations.NibbleSubstitutionLooksUpFourNibbles := by
  refine ⟨fun w s => ⟨rfl, ?nsub, rfl, ?insub⟩, by decide, by decide⟩
  case nsub => rw [exec_nsub, toBus_nsub_ofBus, Laws.Ops.driveResult_eq]
  case insub => rw [exec_insub, toBus_insub_ofBus, Laws.Ops.driveResult_eq]

/-! ## `SHROW` (R102, R103) -/

theorem toBus_shrow_ofBus (w : StateBus) :
    (shrow (.ofBus w)).toBus =
      w.extractLsb' 12 4 ++ w.extractLsb' 0 4 ++ w.extractLsb' 4 4 ++ w.extractLsb' 8 4 := rfl

theorem exec_shrow (w : StateBus) (s : State) :
    exec (.shrow w) s = .next (s.driveResult (.state (shrow (.ofBus w)).toBus)) := rfl

/-- Row 1 exchanged twice is row 1 (R103). -/
@[simp] theorem shrow_shrow (c : CipherState) : shrow (shrow c) = c := rfl

/-- Exchanging two equal elements changes nothing. -/
theorem shrow_eq_self {c : CipherState} (h : c.s10 = c.s11) : shrow c = c := by
  obtain ⟨s00, s10, s01, s11⟩ := c
  obtain rfl : s10 = s11 := h
  rfl

/-- Settles O29: the result bus by the equation of the instruction, the laws by those of the transform. -/
theorem shrowExchangesRowOne : Obligations.ShrowExchangesRowOne := by
  refine ⟨fun w s => ⟨rfl, ?bus⟩, shrow_shrow, fun _ => shrow_eq_self, by decide, by decide⟩
  case bus => rw [exec_shrow, toBus_shrow_ofBus, Laws.Ops.driveResult_eq]

/-! ## `KEYADD` (R107, R108) -/

/-- Two states that one bus carries are the same state (R91). -/
theorem toBus_injective : Function.Injective CipherState.toBus := Function.LeftInverse.injective ofBus_toBus

/-- The XOR of the elements is the XOR of the buses (R107). -/
@[simp] theorem toBus_keyadd (c k : CipherState) : (keyadd c k).toBus = c.toBus ^^^ k.toBus := by
  have sum : (c.s00 ++ c.s10 ++ c.s01 ++ c.s11) ^^^ (k.s00 ++ k.s10 ++ k.s01 ++ k.s11) =
      (c.s00 ^^^ k.s00) ++ (c.s10 ^^^ k.s10) ++ (c.s01 ^^^ k.s01) ++ (c.s11 ^^^ k.s11) := by
    rw [BitVec.xor_append, BitVec.xor_append, BitVec.xor_append]
  exact sum.symm

theorem exec_keyadd (w k : StateBus) (s : State) :
    exec (.keyadd w k) s = .next (s.driveResult (.state (w ^^^ k))) :=
  calc exec (.keyadd w k) s
    _ = .next (s.driveResult (.state (keyadd (.ofBus w) (.ofBus k)).toBus)) := rfl
    _ = .next (s.driveResult (.state (w ^^^ k))) := by rw [toBus_keyadd, toBus_ofBus, toBus_ofBus]

theorem keyadd_comm (c k : CipherState) : keyadd c k = keyadd k c :=
  toBus_injective (by rw [toBus_keyadd, toBus_keyadd, BitVec.xor_comm])

theorem keyadd_assoc (c k l : CipherState) : keyadd (keyadd c k) l = keyadd c (keyadd k l) :=
  toBus_injective (by simp only [toBus_keyadd, BitVec.xor_assoc])

@[simp] theorem keyadd_zero (c : CipherState) : keyadd c (.ofBus 0x0000) = c :=
  toBus_injective (by rw [toBus_keyadd, toBus_ofBus]; exact BitVec.xor_zero)

@[simp] theorem keyadd_self (c : CipherState) : keyadd c c = .ofBus 0x0000 :=
  toBus_injective (by rw [toBus_keyadd, toBus_ofBus]; exact BitVec.xor_self)

/-- The same round key twice restores the state (R108). -/
@[simp] theorem keyadd_keyadd_same (c k : CipherState) : keyadd (keyadd c k) k = c := by
  rw [keyadd_assoc, keyadd_self, keyadd_zero]

/-- Settles O33: the result bus by the equation of the instruction, the laws by those of the transform. -/
theorem keyaddIsXorOfTheBuses : Obligations.KeyaddIsXorOfTheBuses :=
  ⟨fun w k s => ⟨rfl, exec_keyadd w k s⟩,
    fun c k => ⟨keyadd_keyadd_same c k, keyadd_comm c k, keyadd_zero c, keyadd_self c⟩, by decide⟩

end Sys2Proof.Proofs.RoundTransforms
end

-- The Key Schedule unit (44_key_schedule.md).
section
/-! PROOF. `KEYEXP` is `B2S` followed by two `KEYSTEP`s (R118, R120); on the state buses `B2S` moves no bit, so the first
part of the schedule's bus is the key itself. -/

namespace Sys2Proof.Proofs.KeySchedule

open Sys2Proof.Machine

/-! ## `KEYEXP` (R118, R120) -/

/-- Round key 0 is the key bit for bit on the state bus (R118). -/
@[simp] theorem toBus_keyexp_k0 (t : SBoxTable) (k : Key) : (keyexp t k).k0.toBus = k :=
  calc (keyexp t k).k0.toBus
    _ = s2b (b2s k) := rfl
    _ = k := StateConverter.s2b_b2s k

theorem keyexp_k1 (t : SBoxTable) (k : Key) : (keyexp t k).k1 = keystep t (b2s k) 0b0001#4 := rfl

theorem keyexp_k2 (t : SBoxTable) (k : Key) :
    (keyexp t k).k2 = keystep t (keystep t (b2s k) 0b0001#4) 0b0010#4 := rfl

/-- The bus of a schedule, by the key and the two steps (R118). -/
theorem toBus_keyexp (t : SBoxTable) (k : Key) :
    (keyexp t k).toBus = k ++ (keystep t (b2s k) 0b0001#4).toBus ++
      (keystep t (keystep t (b2s k) 0b0001#4) 0b0010#4).toBus := by
  rw [RoundKeys.toBus, toBus_keyexp_k0, keyexp_k1, keyexp_k2]

theorem exec_keyexp (k : Key) (s : State) :
    exec (.keyexp k) s = .next (s.driveResult (.schedule (keyexp sboxTable k).toBus)) := rfl

/-- Settles O36: the result bus by the equation of the instruction, its three parts by those of the schedule. -/
theorem keyexpDerivesThreeRoundKeys : Obligations.KeyexpDerivesThreeRoundKeys := by
  refine ⟨fun k s => ⟨rfl, ?bus⟩, toBus_keyexp_k0, by decide⟩
  case bus => rw [exec_keyexp, toBus_keyexp, Laws.Ops.driveResult_eq]

end Sys2Proof.Proofs.KeySchedule
end

-- What undoes each round transform (43_round_transforms.md, R101, R106).
section
/-! PROOF. The substitutions of a bijective table undo each other entry by entry (R101). `MIXCOL` adds one value to both
elements of a column, the double of their sum (R105); the sum stays, so the second time the same value is added again and
cancels (R106). -/

namespace Sys2Proof.Proofs.TransformInverses

open Sys2Proof.Machine Sys2Proof.Proofs.FieldArithmetic Sys2Proof.Proofs.SubstitutionTables

/-! ## `NSUB` and `INSUB` (R101) -/

section

variable {t : SBoxTable} (bij : Function.Bijective t.lookup)
include bij

theorem isub_sub (n : Nibble) : isub t (sub t n) = n := lookup_inverse_lookup bij.injective n

theorem sub_isub (n : Nibble) : sub t (isub t n) = n := lookup_lookup_inverse bij n

theorem insub_nsub (c : CipherState) : insub t (nsub t c) = c := by
  simp only [insub, nsub, isub_sub bij]

theorem nsub_insub (c : CipherState) : nsub t (insub t c) = c := by
  simp only [insub, nsub, sub_isub bij]

end

/-! ## `MIXCOL` (R104 to R106) -/

theorem scale_xor (c d : Bool) (a : Nibble) : scale (c ^^ d) a = scale c a ^^^ scale d a := by
  cases c <;> cases d <;> simp [scale]

/-- The multiplier distributes over addition of its second operand (R69). -/
theorem gfMul_gfAdd (a b c : Nibble) : gfMul a (gfAdd b c) = gfAdd (gfMul a b) (gfMul a c) := by
  simp only [gfMul_eq_sum, gfAdd, BitVec.getElem_xor, scale_xor]
  ac_rfl

/-- Three is two and one (R71). -/
theorem gfMul_three (v : Nibble) : gfMul 3 v = gfAdd (gfMul 2 v) v := by
  revert v
  decide

/-- Adding a value twice cancels. -/
theorem gfAdd_gfAdd_same (a b : Nibble) : gfAdd a (gfAdd a b) = b := by
  simp only [gfAdd, ← BitVec.xor_assoc, BitVec.xor_self, BitVec.zero_xor]

/-- What `MIXCOL` adds to both elements of a column: the double of their sum (R105). -/
def columnShift (top bot : Nibble) : Nibble := gfMul 2 (gfAdd top bot)

theorem mixTop_eq (top bot : Nibble) : mixTop top bot = gfAdd (columnShift top bot) top := by
  rw [mixTop, mixDiag, mixOff, gfMul_three, columnShift, gfMul_gfAdd]
  simp only [gfAdd]
  ac_rfl

theorem mixBot_eq (top bot : Nibble) : mixBot top bot = gfAdd (columnShift top bot) bot := by
  rw [mixBot, mixDiag, mixOff, gfMul_three, columnShift, gfMul_gfAdd]
  exact (BitVec.xor_assoc _ _ _).symm

/-- Mixing keeps the sum of a column, and so what it adds. -/
theorem columnShift_mix (top bot : Nibble) :
    columnShift (mixTop top bot) (mixBot top bot) = columnShift top bot := by
  have sum : gfAdd (mixTop top bot) (mixBot top bot) = gfAdd top bot :=
    calc gfAdd (mixTop top bot) (mixBot top bot)
      _ = gfAdd (columnShift top bot) (gfAdd (columnShift top bot) (gfAdd top bot)) := by
        rw [mixTop_eq, mixBot_eq]
        simp only [gfAdd]
        ac_rfl
      _ = gfAdd top bot := gfAdd_gfAdd_same _ _
  rw [columnShift, sum, columnShift]

theorem mixTop_mix (top bot : Nibble) : mixTop (mixTop top bot) (mixBot top bot) = top := by
  rw [mixTop_eq, columnShift_mix, mixTop_eq, gfAdd_gfAdd_same]

theorem mixBot_mix (top bot : Nibble) : mixBot (mixTop top bot) (mixBot top bot) = bot := by
  rw [mixBot_eq, columnShift_mix, mixBot_eq, gfAdd_gfAdd_same]

/-- `MIXCOL` is its own inverse, column by column (R106). -/
@[simp] theorem mixcol_mixcol (c : CipherState) : mixcol (mixcol c) = c := by
  simp only [mixcol, mixTop_mix, mixBot_mix]

end Sys2Proof.Proofs.TransformInverses
end

-- The Cipher Engine (45_cipher_engine.md).
section
/-! PROOF. `DECBLK` is `ENCBLK` read backwards with each transform undone (R126, R127), so each undoes the other for every
bijective table (R128); `ENC` and `DEC` answer with them while a key is loaded (R130, R131). -/

namespace Sys2Proof.Proofs.CipherEngine

open Sys2Proof.Machine Sys2Proof.Proofs.CoreState Sys2Proof.Proofs.Visibility

/-! ## The datapaths undo each other (R128) -/

/-- The transform that undoes a transform (R101, R103, R106, R108). -/
def undo : Stage → Stage
  | .keyadd i => .keyadd i
  | .nsub => .insub
  | .insub => .nsub
  | .shrow => .shrow
  | .mixcol => .mixcol

/-- The transforms that undo a list of them: the last one first. -/
def undoAll (stages : List Stage) : List Stage := (stages.map undo).reverse

theorem decStages_eq : decStages = undoAll encStages := rfl

theorem encStages_eq : encStages = undoAll decStages := rfl

section

variable {t : SBoxTable} (bij : Function.Bijective t.lookup) (ks : RoundKeys)
include bij

theorem applyStage_undo (stage : Stage) (c : CipherState) :
    applyStage t ks (applyStage t ks c stage) (undo stage) = c := by
  cases stage with
  | keyadd i => exact RoundTransforms.keyadd_keyadd_same c _
  | nsub => exact TransformInverses.insub_nsub bij c
  | insub => exact TransformInverses.nsub_insub bij c
  | shrow => exact RoundTransforms.shrow_shrow c
  | mixcol => exact TransformInverses.mixcol_mixcol c

/-- The last transform undone comes first, so what lies between is undone before the first one is. -/
theorem runStages_undoAll (stages : List Stage) (c : CipherState) :
    runStages t ks (runStages t ks c stages) (undoAll stages) = c := by
  induction stages generalizing c with
  | nil => rfl
  | cons stage rest ih =>
    calc runStages t ks (runStages t ks c (stage :: rest)) (undoAll (stage :: rest))
      _ = applyStage t ks (runStages t ks (runStages t ks (applyStage t ks c stage) rest) (undoAll rest)) (undo stage) := by
        simp [runStages, undoAll]
      _ = c := by rw [ih, applyStage_undo bij]

theorem decblk_encblk (x : Block) : decblk t (encblk t x ks) ks = x := by
  rw [decblk, encblk, StateConverter.b2s_s2b, decStages_eq, runStages_undoAll bij, StateConverter.s2b_b2s]

theorem encblk_decblk (x : Block) : encblk t (decblk t x ks) ks = x := by
  rw [decblk, encblk, StateConverter.b2s_s2b, encStages_eq, runStages_undoAll bij, StateConverter.s2b_b2s]

end

/-- Settles O39: the transforms of each datapath undo those of the other, last one first. -/
theorem datapathsUndoEachOther : Obligations.DatapathsUndoEachOther := by
  intro t x ks h
  have bij := (Admission.isBijection_iff_bijective_lookup t).1 h
  exact ⟨decblk_encblk bij ks x, encblk_decblk bij ks x⟩

/-! ## `ENC` and `DEC`, with and without a key (R130, R131) -/

section

variable {s : State}

theorem heldSchedule_of_keyValid (h : s.keyValid = true) : heldSchedule s = some s.roundKeys := if_pos h

theorem heldSchedule_of_no_key (h : s.keyValid = false) : heldSchedule s = none := by
  simp [heldSchedule, h]

theorem exec_enc_of_keyValid (h : s.keyValid = true) (x : Block) :
    exec (.enc x) s = .next (answered s (responseWord .ok (encblk sboxTable x s.roundKeys))) := by
  rw [exec_enc, heldSchedule_of_keyValid h, blockAnswer]

theorem exec_enc_of_no_key (h : s.keyValid = false) (x : Block) :
    exec (.enc x) s = .next (answered s (responseWord .noKey 0x0000#16)) := by
  rw [exec_enc, heldSchedule_of_no_key h, blockAnswer]

theorem exec_dec_of_keyValid (h : s.keyValid = true) (x : Block) :
    exec (.dec x) s = .next (answered s (responseWord .ok (decblk sboxTable x s.roundKeys))) := by
  rw [exec_dec, heldSchedule_of_keyValid h, blockAnswer]

theorem exec_dec_of_no_key (h : s.keyValid = false) (x : Block) :
    exec (.dec x) s = .next (answered s (responseWord .noKey 0x0000#16)) := by
  rw [exec_dec, heldSchedule_of_no_key h, blockAnswer]

end

/-- Settles O10: one equation for each value of `KEY_VALID`. -/
theorem encAnswersTheCiphertext : Obligations.EncAnswersTheCiphertext := fun x _ =>
  ⟨rfl, fun h => exec_enc_of_keyValid h x, fun h => exec_enc_of_no_key h x⟩

/-- Settles O11: one equation for each value of `KEY_VALID`. -/
theorem decAnswersThePlaintext : Obligations.DecAnswersThePlaintext := fun x _ =>
  ⟨rfl, fun h => exec_dec_of_keyValid h x, fun h => exec_dec_of_no_key h x⟩

/-- Settles O48: both commands read one schedule, and the configured table is a bijection, so the datapaths undo each
other under it. -/
theorem decUndoesEncAtThePort : Obligations.DecUndoesEncAtThePort := by
  intro x s h
  have bij := SubstitutionTables.bijective_lookup_sboxTable
  refine ⟨⟨_, exec_enc_of_keyValid h x, ?dec⟩, ⟨_, exec_dec_of_keyValid h x, ?enc⟩⟩
  case dec =>
    rw [exec_dec_of_keyValid h, decblk_encblk bij]
    rfl
  case enc =>
    rw [exec_enc_of_keyValid h, encblk_decblk bij]
    rfl

/-! ## `SETKEY` and `NEW` (R129, R133) -/

theorem exec_setkey (k : Key) (s : State) :
    exec (.setkey k) s =
      .next ((s.writeRoundKeys (keyexp sboxTable k)).setKeyValid.respond .ok 0x0000#16) := rfl

/-- Settles O9: the next state by the equation of the instruction, and the example by evaluation. -/
theorem setkeyLoadsTheSchedule : Obligations.SetkeyLoadsTheSchedule :=
  ⟨fun k s => ⟨rfl, exec_setkey k s⟩, by decide⟩

theorem expand_new (k : Key) : expand (.new k) = [.reset, .drive (encode (.setkey k))] := by
  rw [expand, Encoding.issue_setkeyWord]

/-- Settles O57: the first step is the reset event and the second loads the key, whatever the reset left (R174). -/
theorem newBuildsAnEngineWithItsKey : Obligations.NewBuildsAnEngineWithItsKey := by
  intro s k rest hp
  rw [expand_new] at hp
  have first := Laws.Exec.run_next 1 (step_of_reset hp)
  exact ⟨_, first.trans (Laws.Exec.run_next 0 (step_of_setkey rfl)), rfl, by simp, rfl, rfl⟩

/-! ## The order of the transforms (R126, R127) -/

theorem exec_encblk (x : Block) (k0 k1 k2 : StateBus) (s : State) :
    exec (.encblk x k0 k1 k2) s = .next (s.driveResult (.block (encblk sboxTable x (.ofBuses k0 k1 k2)))) := rfl

theorem exec_decblk (x : Block) (k0 k1 k2 : StateBus) (s : State) :
    exec (.decblk x k0 k1 k2) s = .next (s.driveResult (.block (decblk sboxTable x (.ofBuses k0 k1 k2)))) := rfl

/-- The list of `ENCBLK`'s transforms, run from the first to the last (R126). -/
theorem encblk_eq (t : SBoxTable) (x : Block) (ks : RoundKeys) :
    encblk t x ks = s2b (keyadd (shrow (nsub t
      (keyadd (mixcol (shrow (nsub t (keyadd (b2s x) ks.k0)))) ks.k1))) ks.k2) := rfl

/-- The list of `DECBLK`'s transforms, run from the first to the last (R127). -/
theorem decblk_eq (t : SBoxTable) (x : Block) (ks : RoundKeys) :
    decblk t x ks = s2b (keyadd (insub t (shrow (mixcol
      (keyadd (insub t (shrow (keyadd (b2s x) ks.k2))) ks.k1)))) ks.k0) := rfl

/-- Settles O37: the result bus holds the list of transforms run, and the example by evaluation. -/
theorem encblkRunsItsEightTransforms : Obligations.EncblkRunsItsEightTransforms := by
  refine ⟨fun x k0 k1 k2 s => ⟨rfl, ?bus⟩, by decide⟩
  case bus =>
    rw [exec_encblk, encblk_eq]
    rfl

/-- Settles O38: the result bus holds the list of transforms run, and the example by evaluation. -/
theorem decblkRunsItsEightTransforms : Obligations.DecblkRunsItsEightTransforms := by
  refine ⟨fun x k0 k1 k2 s => ⟨rfl, ?bus⟩, by decide⟩
  case bus =>
    rw [exec_decblk, decblk_eq]
    rfl

end Sys2Proof.Proofs.CipherEngine
end

-- The two exceptions (60_exceptions.md).
section
/-! PROOF. Which exception an instruction raises, if any, is a function of the instruction and `KEY_VALID` (R151 to R154). If
it raises one, that is all it does (R156), and the next instruction sees the same core (R157); if it raises none, a command
is answered `OK`. -/

namespace Sys2Proof.Proofs.Exceptions

open Sys2Proof.Machine Sys2Proof.Safety
open Sys2Proof.Proofs.CoreState Sys2Proof.Proofs.Visibility Sys2Proof.Proofs.Responses

/-! ## The exception an instruction raises (R151) -/

/-- The table of R151: the exception that an instruction raises when `KEY_VALID` is `valid`. -/
def raised (valid : Bool) : Instr → Option Exc
  | .reserved _ => some .illegal
  | .enc _ | .dec _ => if valid then none else some .noKey
  | _ => none

theorem raised_eq_illegal_iff (valid : Bool) (i : Instr) :
    raised valid i = some .illegal ↔ ∃ data, i = .reserved data := by
  cases i
  case reserved data => exact ⟨fun _ => ⟨data, rfl⟩, fun _ => rfl⟩
  case enc | dec => cases valid <;> simp [raised]
  all_goals simp [raised]

theorem raised_eq_noKey_iff (valid : Bool) (i : Instr) :
    raised valid i = some .noKey ↔ AsksForBlock i ∧ valid = false := by
  cases i
  case enc | dec => cases valid <;> simp [raised, AsksForBlock]
  all_goals simp [raised, AsksForBlock]

/-- `E_ILLEGAL`, from every state (R152). -/
theorem exec_reserved (data : BitVec 16) (s : State) : exec (.reserved data) s = .next (s.raise .illegal) := rfl

/-- `E_NOKEY`, whatever the data and the round keys (R153). -/
theorem exec_of_asksForBlock_of_no_key {i : Instr} {s : State} (hi : AsksForBlock i) (h : s.keyValid = false) :
    exec i s = .next (s.raise .noKey) := by
  obtain ⟨f, hf⟩ := exec_of_asksForBlock hi
  rw [hf, CipherEngine.heldSchedule_of_no_key h]
  rfl

/-- An exception is the only effect of its instruction (R156). -/
theorem exec_of_raised {i : Instr} {s : State} {e : Exc} (h : raised s.keyValid i = some e) :
    exec i s = .next (s.raise e) := by
  cases e with
  | illegal =>
    obtain ⟨data, rfl⟩ := (raised_eq_illegal_iff _ i).1 h
    exact exec_reserved data s
  | noKey =>
    obtain ⟨hi, hv⟩ := (raised_eq_noKey_iff _ i).1 h
    exact exec_of_asksForBlock_of_no_key hi hv

/-- A command that raises nothing is answered `OK` (R154). -/
theorem exec_of_raised_eq_none {i : Instr} {s : State} (hi : i.port = .command) (h : raised s.keyValid i = none) :
    ∃ t data, exec i s = .next t ∧ t.responses = s.responses ++ [responseWord .ok data] := by
  cases i
  case reserved => cases h
  case setkey k => exact ⟨_, _, CipherEngine.exec_setkey k s, rfl⟩
  case enc x =>
    have hv : s.keyValid = true := by simpa [raised] using h
    exact ⟨_, _, CipherEngine.exec_enc_of_keyValid hv x, rfl⟩
  case dec x =>
    have hv : s.keyValid = true := by simpa [raised] using h
    exact ⟨_, _, CipherEngine.exec_dec_of_keyValid hv x, rfl⟩
  all_goals cases hi

/-! ## The status an exception is reported with (R49, R151) -/

/-- The status of a command that raises this exception, or none. -/
def reported : Option Exc → Status
  | none => .ok
  | some e => e.status

theorem code_reported_eq_one_iff (o : Option Exc) : (reported o).code = 0b01#2 ↔ o = some .illegal := by
  rcases o with _ | _ | _ <;> decide

theorem code_reported_eq_two_iff (o : Option Exc) : (reported o).code = 0b10#2 ↔ o = some .noKey := by
  rcases o with _ | _ | _ <;> decide

/-- A command's response, by what it raises; an error is its only effect. -/
theorem exec_command {i : Instr} (hi : i.port = .command) (s : State) :
    ∃ t data, exec i s = .next t ∧
      t.responses = s.responses ++ [responseWord (reported (raised s.keyValid i)) data] ∧
      ((reported (raised s.keyValid i)).code ≠ 0b00#2 → data = 0x0000#16 ∧
        t = answered s (responseWord (reported (raised s.keyValid i)) data)) := by
  cases h : raised s.keyValid i with
  | none =>
    obtain ⟨t, data, hexec, ht⟩ := exec_of_raised_eq_none hi h
    exact ⟨t, data, hexec, ht, fun error => absurd rfl error⟩
  | some e => exact ⟨_, _, exec_of_raised h, rfl, fun _ => ⟨rfl, rfl⟩⟩

/-- Settles O14: the status of the response names the exception raised, and the table of R151 says when that is. -/
theorem exactlyTwoExceptionsAreRaised : Obligations.ExactlyTwoExceptionsAreRaised := by
  intro i s hi
  obtain ⟨t, data, hexec, ht, only⟩ := exec_command hi s
  refine ⟨t, _, hexec, ht, ?_⟩
  rw [statusOf_responseWord, dataOf_responseWord]
  exact ⟨(code_reported_eq_one_iff _).trans (raised_eq_illegal_iff _ i),
    (code_reported_eq_two_iff _).trans (raised_eq_noKey_iff _ i), code_ne_three _, only⟩

/-- Settles O15: only a command answers, so the response is the one of which O14 speaks. -/
theorem anErrorChangesNoState : Obligations.AnErrorChangesNoState := by
  intro i s t r h ht error
  have hi : i.port = .command := port_eq_command_of_responses_ne h (by simp [ht])
  obtain ⟨t', r', h', ht', -, -, -, only⟩ := exactlyTwoExceptionsAreRaised i s hi
  cases h'.symm.trans h
  cases List.append_cancel_left (ht'.symm.trans ht)
  exact only error

/-! ## After an error (R157) -/

/-- No instruction takes or adds a move, and a command leaves the result bus as it is. -/
theorem exec_frame {i : Instr} {s t : State} (h : exec i s = .next t) :
    t.pending = s.pending ∧ (i.port = .command → t.unitOut = s.unitOut) := by
  by_cases hi : i.port = .command
  · obtain ⟨hpending, hout, -⟩ := commandsChangeOnlyTheirRegisters i s t hi h
    exact ⟨hpending, fun _ => hout⟩
  · obtain ⟨-, -, -, -, hpending, -⟩ := FieldArithmetic.unitOperationsTouchNoArchitecturalState i s t hi h
    exact ⟨hpending, fun command => absurd command hi⟩

/-- Settles O16: an exception leaves the core as it is, and what an instruction does depends on nothing else (O46). -/
theorem anErrorIsNotSticky : Obligations.AnErrorIsNotSticky := by
  intro i s e
  have same : SameCore s (s.raise e) := ⟨rfl, rfl, rfl, rfl⟩
  obtain ⟨t, t', out, h, h', core, hr, hr', unit⟩ := onlyTheCoreStateMatters i s (s.raise e) same
  obtain ⟨hpending, hout⟩ := exec_frame h
  obtain ⟨hpending', hout'⟩ := exec_frame h'
  refine ⟨t, t', out, h, h', hr, hr', core, ?_, hpending.trans hpending'.symm⟩
  by_cases hi : i.port = .command
  · exact (hout hi).trans (hout' hi).symm
  · exact unit hi

/-! ## Nothing else raises anything (R154) -/

/-- Settles O45: a step idles, is a reset, or executes an instruction, and each completes. -/
theorem everyInstructionCompletes : Obligations.EveryInstructionCompletes := by
  refine ⟨exec_completes, fun s => ?_⟩
  rcases Laws.Exec.stepBy_cases exec s with ⟨-, idle⟩ | ⟨rest, -, reset⟩ | ⟨w, rest, -, drive⟩
  · exact ⟨_, idle⟩
  · exact ⟨_, reset⟩
  · obtain ⟨t, ht⟩ := exec_completes (decode w) { s with pending := rest }
    exact ⟨t, drive.trans ht⟩

/-! ## Each exception on its own (R152, R153) -/

/-- Decoding a command word by its two fields (R46, R47). -/
theorem decode_command_eq (w : CommandWord) :
    decode ⟨.command, w⟩ = Encoding.commandOfOp (w.extractLsb' 16 2) (w.extractLsb' 0 16) := by
  rw [← Encoding.decode_command, op_append_data]

/-- Settles O7: op `00` selects the reserved instruction, which raises in every state. -/
theorem reservedWordRaisesIllegal : Obligations.ReservedWordRaisesIllegal := by
  intro w s op
  refine ⟨?_, exec_reserved _ s⟩
  rw [decode_command_eq, op]
  rfl

/-- Settles O12: the round keys do not occur in what makes `ENC` and `DEC` raise. -/
theorem noKeyIsRaisedBeforeTheRegistersAreRead : Obligations.NoKeyIsRaisedBeforeTheRegistersAreRead := by
  intro x i s r0 r1 r2 hi h
  have block : AsksForBlock i := ⟨x, hi⟩
  exact ⟨exec_of_asksForBlock_of_no_key block h, exec_of_asksForBlock_of_no_key block h⟩

end Sys2Proof.Proofs.Exceptions
end

-- The host's moves, and the words that drive them (70_reset_and_hazards.md section 5, 30_encoding.md sections 2 and 3).
section
/-! PROOF. A step takes the oldest move: a driven word is decoded and executed, a reset is the reset event, and with no move
the machine idles (R62, R165, R171, R186). -/

namespace Sys2Proof.Proofs.HostMoves

open Sys2Proof.Proofs.CoreState

/-- Settles O1: one equation of the step for each kind of move, and one for none. -/
theorem stepRunsTheDecodedInstruction : Obligations.StepRunsTheDecodedInstruction :=
  ⟨fun _ _ _ => step_of_drive, fun _ _ => step_of_reset, fun _ => step_of_idle⟩

/-- Settles O4: the fixed words evaluated, one by one. -/
theorem wordsOfTheEncodingTablesDecode : Obligations.WordsOfTheEncodingTablesDecode :=
  ⟨by decide, by decide, by decide, by decide, by decide, by decide, by decide, by decide, by decide, by decide⟩

end Sys2Proof.Proofs.HostMoves
end

-- Reset, and what a loaded key keeps true (70_reset_and_hazards.md section 1, 10_state.md sections 3 and 5).
section
/-! PROOF. A step that is neither a reset nor a `SETKEY` leaves the core as it is, so the schedule held stays that of the last
key loaded, or none (R12 to R14). A run of such moves is followed by the cipher object (O54), whose key does not change
under them; what the machine answers in that run and after it is read off the object (R39, R173). -/

namespace Sys2Proof.Proofs.Reset

open Sys2Proof.Machine Sys2Proof.Safety
open Sys2Proof.Proofs.CoreState Sys2Proof.Proofs.Visibility

/-! ## The schedule invariant (R14) -/

theorem scheduleFromKey_of_no_key {s : State} (h : s.keyValid = false) : ScheduleFromKey s :=
  fun valid => absurd (h.symm.trans valid) Bool.false_ne_true

/-- The invariant speaks of the core alone. -/
theorem scheduleFromKey_of_sameCore {s t : State} (same : SameCore s t) (hs : ScheduleFromKey s) :
    ScheduleFromKey t := by
  obtain ⟨h0, h1, h2, hv⟩ := same
  intro valid
  have held : s.roundKeys = keyexp sboxTable s.rk0 := hs (hv.trans valid)
  rwa [State.roundKeys, h0, h1, h2] at held

/-- The schedule that `SETKEY` loads is that of the key in `RK[0]`, as `KEYEXP` puts the key there (R118, R129). -/
theorem scheduleFromKey_loadKey (s : State) (k : Key) :
    ScheduleFromKey (s.writeRoundKeys (keyexp sboxTable k)).setKeyValid := by
  intro _
  simp

/-- Settles O51: a reset clears `KEY_VALID`, `SETKEY` loads a schedule with its key, and any other step leaves the core
as it is. -/
theorem everyStepKeepsTheSchedule : Obligations.EveryStepKeepsTheSchedule := by
  intro s t hs h
  rcases step_core_cases h with ⟨rest, hp⟩ | ⟨k, rest, hp⟩ | same
  · exact scheduleFromKey_of_no_key (step_keyValid_of_reset h hp)
  · cases (step_of_setkey hp).symm.trans h
    exact scheduleFromKey_loadKey { s with pending := rest } k
  · exact scheduleFromKey_of_sameCore same hs

/-- Settles O53: no key is valid after reset, and nothing has been answered. -/
theorem bothInvariantsHoldAtReset : Obligations.BothInvariantsHoldAtReset :=
  ⟨scheduleFromKey_of_no_key rfl, List.forall_mem_nil _⟩

/-! ## The reset event (R171, R172) -/

/-- Settles O49: the step at a reset is the reset event, which writes only the core and the model's counter. -/
theorem resetClearsKeyValidWithoutResponse : Obligations.ResetClearsKeyValidWithoutResponse :=
  ⟨rfl, fun _ _ hp => ⟨_, step_of_reset hp, rfl, rfl, rfl, rfl⟩⟩

/-! ## Moves that load no key -/

/-- A word that is no `SETKEY` word decodes to no `SETKEY`. -/
theorem decode_ne_setkey {w : BusWord} (h : ¬ LoadsKey (.drive w)) (k : Key) : decode w ≠ .setkey k :=
  fun hw => h ⟨k, congrArg Move.drive (eq_encode_of_decode_eq_setkey hw)⟩

/-- Only `SETKEY` changes the object's key (R13). -/
theorem objectInstr_key {i : Instr} (hi : ∀ k, i ≠ .setkey k) (key : Option Key) : (objectInstr key i).1 = key := by
  cases i
  case setkey k => exact absurd rfl (hi k)
  case enc => cases key <;> rfl
  case dec => cases key <;> rfl
  all_goals rfl

/-- An object without a key answers errors only (R152, R153). -/
theorem objectInstr_none_answers {i : Instr} (hi : ∀ k, i ≠ .setkey k) :
    ∀ r ∈ (objectInstr none i).2, r = 0x20000#18 ∨ r = 0x10000#18 := by
  cases i
  case setkey k => exact absurd rfl (hi k)
  case reserved => exact List.forall_mem_singleton.2 (.inr rfl)
  case enc => exact List.forall_mem_singleton.2 (.inl rfl)
  case dec => exact List.forall_mem_singleton.2 (.inl rfl)
  all_goals exact List.forall_mem_nil _

theorem objectMove_none {m : Move} (h : ¬ LoadsKey m) :
    (objectMove none m).1 = none ∧ ∀ r ∈ (objectMove none m).2, r = 0x20000#18 ∨ r = 0x10000#18 := by
  cases m with
  | reset => exact ⟨rfl, List.forall_mem_nil _⟩
  | drive w => exact ⟨objectInstr_key (decode_ne_setkey h) none, objectInstr_none_answers (decode_ne_setkey h)⟩

/-- Without a `SETKEY` an object without a key stays without one and answers errors only (R173). -/
theorem objectRun_none {moves : List Move} (h : ∀ m ∈ moves, ¬ LoadsKey m) :
    (objectRun none moves).1 = none ∧ ∀ r ∈ (objectRun none moves).2, r = 0x20000#18 ∨ r = 0x10000#18 := by
  induction moves with
  | nil => exact ⟨rfl, List.forall_mem_nil _⟩
  | cons m rest ih =>
    obtain ⟨hm, hrest⟩ := List.forall_mem_cons.1 h
    obtain ⟨now, answers⟩ := objectMove_none hm
    obtain ⟨later, answers'⟩ := ih hrest
    rw [objectRun, now]
    exact ⟨later, List.forall_mem_append.2 ⟨answers, answers'⟩⟩

/-- Moves that are no reset and no `SETKEY` leave the object its key (R13). -/
theorem objectRun_key {moves : List Move} (h : ∀ m ∈ moves, m ≠ .reset ∧ ¬ LoadsKey m) (key : Option Key) :
    (objectRun key moves).1 = key := by
  induction moves with
  | nil => rfl
  | cons m rest ih =>
    obtain ⟨⟨noReset, noKey⟩, hrest⟩ := List.forall_mem_cons.1 h
    have now : (objectMove key m).1 = key := by
      cases m with
      | reset => exact absurd rfl noReset
      | drive w => exact objectInstr_key (decode_ne_setkey noKey) key
    rw [objectRun, now]
    exact ih hrest

/-- After a first step to a state that stands for an object, the run over the other moves follows the object (O54). -/
theorem run_follows_objectRun {s u : State} {key : Option Key} {moves : List Move} (first : step s = .next u)
    (hu : Represents u key) (hp : u.pending = moves) :
    ∃ t : State, Host.Core.run Sys2Proof.core (moves.length + 1) s = .next t ∧ Follows u t (objectRun key moves) := by
  obtain ⟨t, hrun, -, ht, hresp⟩ := theMachineRefinesTheCipherObject u key hu
  rw [hp] at hrun ht hresp
  exact ⟨t, (Laws.Exec.run_next _ first).trans hrun, ht, hresp⟩

/-- Settles O50: after the reset the machine stands for an object without a key, and so it does to the end of the run. -/
theorem resetErasesTheKey : Obligations.ResetErasesTheKey := by
  intro s moves hp hmoves
  obtain ⟨t, hrun, ht, hresp⟩ := run_follows_objectRun (key := none) (moves := moves) (step_of_reset hp) rfl rfl
  obtain ⟨stays, errors⟩ := objectRun_none hmoves
  rw [stays] at ht
  exact ⟨t, _, hrun, hresp, errors, fun _ block => Exceptions.exec_of_asksForBlock_of_no_key block ht⟩

/-- Settles O56: after `SETKEY` the machine stands for an object with that key, and so it does to the end of the run. -/
theorem aNewKeyIsVisibleInFull : Obligations.ANewKeyIsVisibleInFull := by
  intro s k moves hp hmoves
  have loaded := Laws.Ops.writeRoundKeys_roundKeys { s with pending := moves } (keyexp sboxTable k)
  obtain ⟨t, hrun, ht, -⟩ :=
    run_follows_objectRun (key := some k) (moves := moves) (step_of_setkey hp) ⟨rfl, loaded⟩ rfl
  rw [objectRun_key hmoves] at ht
  obtain ⟨valid, schedule⟩ := ht
  refine ⟨t, hrun, fun x => ?_⟩
  rw [← schedule]
  exact ⟨CipherEngine.exec_enc_of_keyValid valid x, CipherEngine.exec_dec_of_keyValid valid x⟩

end Sys2Proof.Proofs.Reset
end

-- The laws of the field (40_field_arithmetic.md section 3).
section
/-! PROOF. The multiplier adds up the multiples `a`, `a x`, `a x^2`, `a x^3` that the bits of `b` select, and `x^4 = x + 1`; so
multiplying by `a` commutes with all that such a sum is made of: with addition, with the selection by a bit, and with
multiplying by `x`. Associativity is that (R69). -/

namespace Sys2Proof.Proofs.FieldLaws

open Sys2Proof.Machine Sys2Proof.Safety
open Sys2Proof.Proofs.FieldArithmetic Sys2Proof.Proofs.TransformInverses

/-! ## The sum of multiples -/

theorem timesX_xor (a b : Nibble) : timesX (a ^^^ b) = timesX a ^^^ timesX b := by
  have comm : Std.Commutative Bool.xor := ⟨Bool.xor_comm⟩
  apply nibble_ext
  case h1 =>
    simp only [BitVec.getElem_xor, getElem_timesX_one]
    ac_rfl
  all_goals simp

theorem timesX_scale (c : Bool) (a : Nibble) : timesX (scale c a) = scale c (timesX a) := by
  have zero : timesX 0#4 = 0#4 := by decide
  cases c with
  | false => exact zero
  | true => rfl

theorem scale_xor_right (c : Bool) (a b : Nibble) : scale c (a ^^^ b) = scale c a ^^^ scale c b := by
  cases c <;> simp [scale]

/-- `x^4 = x + 1` (R5, R68). -/
theorem timesX_four (a : Nibble) : timesX (timesX (timesX (timesX a))) = timesX a ^^^ a := by
  revert a
  decide

/-- Multiplying by `x` first or last is the same: the sum moves up by one place, and its last place wraps around. -/
theorem gfMul_timesX (a b : Nibble) : gfMul a (timesX b) = timesX (gfMul a b) := by
  simp only [gfMul_eq_sum, getElem_timesX_zero, getElem_timesX_one, getElem_timesX_two, getElem_timesX_three,
    timesX_xor, timesX_scale, timesX_four, scale_xor, scale_xor_right]
  ac_rfl

theorem gfMul_zero (a : Nibble) : gfMul a 0 = 0 := by
  simp [gfMul_eq_sum, scale]

theorem gfMul_one (a : Nibble) : gfMul a 1 = a := by
  simp [gfMul_eq_sum, scale]

theorem gfMul_two (a : Nibble) : gfMul a 2 = timesX a := by
  simp [gfMul_eq_sum, scale]

theorem gfMul_scale (c : Bool) (a b : Nibble) : gfMul a (scale c b) = scale c (gfMul a b) := by
  cases c with
  | false => exact gfMul_zero a
  | true => rfl

theorem gfMul_xor (a b c : Nibble) : gfMul a (b ^^^ c) = gfMul a b ^^^ gfMul a c := gfMul_gfAdd a b c

/-! ## The laws (R69, R71) -/

/-- The schoolbook product is the same with its operands exchanged. -/
theorem gfMul_comm (a b : Nibble) : gfMul a b = gfMul b a := by
  rw [gfMul_eq_gfMulSchoolbook, gfMul_eq_gfMulSchoolbook]
  have andComm : Std.Commutative Bool.and := ⟨Bool.and_comm⟩
  have xorComm : Std.Commutative Bool.xor := ⟨Bool.xor_comm⟩
  simp only [gfMulSchoolbook]
  ac_rfl

theorem gfMul_assoc (a b c : Nibble) : gfMul (gfMul a b) c = gfMul a (gfMul b c) := by
  rw [gfMul_eq_sum (gfMul a b) c, gfMul_eq_sum b c]
  simp only [gfMul_xor, gfMul_scale, gfMul_timesX]

theorem exists_gfMul_eq_one : ∀ a : Nibble, a ≠ 0 → ∃ b, gfMul a b = 1 := by decide

/-- Settles O19: commutativity from the schoolbook product, distributivity and associativity from the sum of multiples,
and the inverses found among the 16 nibbles. -/
theorem gfmulIsFieldMultiplication : Obligations.GfmulIsFieldMultiplication :=
  ⟨gfMul_comm, fun a => ⟨gfMul_zero a, gfMul_one a⟩, gfMul_assoc, gfMul_gfAdd, exists_gfMul_eq_one⟩

/-- Settles O20: two is `x`, and three is `x + 1`. -/
theorem constantMultipliersAreWiring : Obligations.ConstantMultipliersAreWiring :=
  fun v => ⟨(gfMul_comm 2 v).trans (gfMul_two v), gfMul_three v⟩

end Sys2Proof.Proofs.FieldLaws
end

-- What the spec derives of the tables and the transforms (41_sbox.md, 43_round_transforms.md, 44_key_schedule.md).
section
/-! PROOF. A bijective table and its derived inverse undo each other entry by entry (R83, R101). A column of `MIXCOL` is the
column with the double of its sum added to both elements (R105), from which its fixed points and its lanes are read off
(R104, R109). The assignments of `KEYSTEP` are undone from the last to the first (R117). -/

namespace Sys2Proof.Proofs.TransformLaws

open Sys2Proof.Machine Sys2Proof.Laws.Operands
open Sys2Proof.Proofs.SubstitutionTables Sys2Proof.Proofs.TransformInverses

/-! ## The substitutions (R83, R101) -/

/-- Settles O23: the loop of R83 leaves each address where the table sends it; the printed table by evaluation. -/
theorem theDerivedTableInvertsEveryBijection : Obligations.TheDerivedTableInvertsEveryBijection :=
  ⟨fun _ bij => ⟨lookup_inverse_lookup bij.injective, lookup_lookup_inverse bij⟩, by decide⟩

/-- Settles O28: the table passes the check exactly when it is a bijection, so each of the four lookups is undone. -/
theorem nibbleSubstitutionsUndoEachOther : Obligations.NibbleSubstitutionsUndoEachOther := by
  intro t c h
  have bij := (Admission.isBijection_iff_bijective_lookup t).1 h
  exact ⟨insub_nsub bij c, nsub_insub bij c⟩

/-! ## `MIXCOL` (R104 to R106) -/

/-- Settles O32: the double of a column's sum is added twice. -/
theorem mixcolIsItsOwnInverse : Obligations.MixcolIsItsOwnInverse := mixcol_mixcol

/-- Settles O31: what is added to both elements of a column is the double of their sum. -/
theorem mixcolNeedsOneMultiplierPerColumn : Obligations.MixcolNeedsOneMultiplierPerColumn := fun c =>
  ⟨mixTop_eq c.s00 c.s10, mixBot_eq c.s00 c.s10, mixTop_eq c.s01 c.s11, mixBot_eq c.s01 c.s11⟩

/-- The sum of two equal elements is 0, and so is its double. -/
theorem columnShift_self (v : Nibble) : columnShift v v = 0#4 := by
  have sum : gfAdd v v = 0#4 := BitVec.xor_self
  rw [columnShift, sum]
  exact FieldLaws.gfMul_zero 2

theorem mixTop_self (v : Nibble) : mixTop v v = v := by
  rw [mixTop_eq, columnShift_self]
  exact BitVec.zero_xor

theorem mixBot_self (v : Nibble) : mixBot v v = v := by
  rw [mixBot_eq, columnShift_self]
  exact BitVec.zero_xor

/-- Columns of equal elements are fixed (R104). -/
theorem mixcol_of_equal_columns (v u : Nibble) : mixcol ⟨v, v, u, u⟩ = ⟨v, v, u, u⟩ := by
  simp only [mixcol, mixTop_self, mixBot_self]

theorem toBus_mixcol_ofBus (w : StateBus) :
    (mixcol (.ofBus w)).toBus =
      gfAdd (gfMul 3 (w.extractLsb' 12 4)) (gfMul 2 (w.extractLsb' 8 4)) ++
        gfAdd (gfMul 2 (w.extractLsb' 12 4)) (gfMul 3 (w.extractLsb' 8 4)) ++
        gfAdd (gfMul 3 (w.extractLsb' 4 4)) (gfMul 2 (w.extractLsb' 0 4)) ++
        gfAdd (gfMul 2 (w.extractLsb' 4 4)) (gfMul 3 (w.extractLsb' 0 4)) := rfl

theorem exec_mixcol (w : StateBus) (s : State) :
    exec (.mixcol w) s = .next (s.driveResult (.state (mixcol (.ofBus w)).toBus)) := rfl

/-- Settles O30: the result bus by the equation of the instruction; the zero state is one of equal columns. -/
theorem mixcolMultipliesEachColumn : Obligations.MixcolMultipliesEachColumn := by
  refine ⟨fun w s => ⟨rfl, ?bus⟩, mixcol_of_equal_columns 0 0, mixcol_of_equal_columns, by decide⟩
  case bus => rw [exec_mixcol, toBus_mixcol_ofBus, Laws.Ops.driveResult_eq]

/-! ## Lanes (R109) -/

/-- Settles O34: the lane functions are the lookups, the addition and the two lines of a column, each of which reads both
elements. -/
theorem transformsActOnLanes : Obligations.TransformsActOnLanes :=
  ⟨fun t => ⟨sub t, isub t, fun _ => ⟨rfl, rfl⟩⟩, ⟨gfAdd, fun _ _ => rfl⟩, fun _ => rfl,
    mixTop, mixBot, fun _ => rfl,
    ⟨0, 1, 0, by decide⟩, ⟨0, 1, 0, by decide⟩, ⟨0, 1, 0, by decide⟩, ⟨0, 1, 0, by decide⟩⟩

/-! ## `KEYSTEP` (R117) -/

/-- The four assignments of `KEYSTEP` undone, from the last to the first; the lookup is on the element restored first. -/
def keystepBack (t : SBoxTable) (n : CipherState) (rc : Nibble) : CipherState where
  s11 := n.s11 ^^^ n.s01
  s01 := n.s01 ^^^ n.s10
  s10 := n.s10 ^^^ n.s00
  s00 := n.s00 ^^^ rc ^^^ sub t (n.s11 ^^^ n.s01)

theorem keystepBack_keystep (t : SBoxTable) (p : CipherState) (rc : Nibble) :
    keystepBack t (keystep t p rc) rc = p := by
  simp [keystepBack, keystep, BitVec.xor_assoc]

theorem keystep_keystepBack (t : SBoxTable) (n : CipherState) (rc : Nibble) :
    keystep t (keystepBack t n rc) rc = n := by
  simp [keystepBack, keystep, BitVec.xor_assoc]

theorem keystep_bijective (t : SBoxTable) (rc : Nibble) : Function.Bijective fun p => keystep t p rc :=
  Function.bijective_iff_has_inverse.2 ⟨fun n => keystepBack t n rc, fun p => keystepBack_keystep t p rc,
    fun n => keystep_keystepBack t n rc⟩

theorem exec_keystep (p : StateBus) (rc : Nibble) (s : State) :
    exec (.keystep p rc) s = .next (s.driveResult (.state (keystep sboxTable (.ofBus p) rc).toBus)) := rfl

/-- Settles O35: the result bus by the equation of the instruction, and `KEYSTEP` for each constant by its inverse. -/
theorem keystepChainsItsAssignments : Obligations.KeystepChainsItsAssignments :=
  ⟨fun p rc s => ⟨rfl, exec_keystep p rc s⟩, keystep_bijective, by decide⟩

end Sys2Proof.Proofs.TransformLaws
end

-- The fixed work of the datapaths and of the key schedule (70_reset_and_hazards.md section 4).
section
/-! PROOF. Each counted operation gives the model's value and adds a constant to the count, whatever its operands; so does one
after another, and the constants of a stage list or of the schedule are added up (R180). -/

namespace Sys2Proof.Proofs.FixedWork

open Sys2Proof.Machine Sys2Proof.Safety

/-! ## What a counted computation costs -/

/-- The sum of two counts. -/
def plus (v w : Work) : Work where
  lookups := v.lookups + w.lookups
  multiplies := v.multiplies + w.multiplies
  nibbleXors := v.nibbleXors + w.nibbleXors
  stateXors := v.stateXors + w.stateXors

theorem plus_assoc (u v w : Work) : plus (plus u v) w = plus u (plus v w) := by
  simp only [plus, Nat.add_assoc]

theorem zero_plus (w : Work) : plus {} w = w := by
  simp only [plus, Nat.zero_add]

/-- The computation gives `a` and adds `cost` to the count, whatever stands there. -/
def Costs {α : Type} (x : Counted α) (a : α) (cost : Work) : Prop := ∀ w, x.run w = (a, plus w cost)

theorem costs_pure {α : Type} (a : α) : Costs (pure a) a {} := fun _ => rfl

/-- A function of the value costs nothing. -/
theorem costs_map {α β : Type} {x : Counted α} {a : α} {v : Work} (h : Costs x a v) (g : α → β) :
    Costs (x >>= fun a => pure (g a)) (g a) v := by
  intro w
  rw [StateT.run_bind, h]
  rfl

/-- One computation after another costs what both cost. -/
theorem costs_bind {α β : Type} {x : Counted α} {f : α → Counted β} {a : α} {b : β} {v w both : Work}
    (first : Costs x a v) (second : Costs (f a) b w) (sum : plus v w = both) : Costs (x >>= f) b both := by
  intro u
  rw [StateT.run_bind, first, ← sum, ← plus_assoc]
  exact second _

theorem run_of_costs {α : Type} {x : Counted α} {a : α} {cost : Work} (h : Costs x a cost) : x.run {} = (a, cost) := by
  rw [h, zero_plus]

/-! ## The transforms and the datapaths -/

/-- The work of one transform (R180); `SHROW` makes none. -/
def stageWork : Stage → Work
  | .keyadd _ => { stateXors := 1 }
  | .nsub | .insub => { lookups := 4 }
  | .shrow => {}
  | .mixcol => { multiplies := 8, nibbleXors := 4 }

/-- A transform gives what the model's transform gives, and its work depends on no data. -/
theorem stageCounted_costs (t : SBoxTable) (ks : RoundKeys) (s : CipherState) (stage : Stage) :
    Costs (stageCounted t ks s stage) (applyStage t ks s stage) (stageWork stage) := by
  cases stage <;> exact fun _ => rfl

/-- The work of a list of transforms. -/
def stagesWork (stages : List Stage) : Work := (stages.map stageWork).foldr plus {}

theorem foldlM_stageCounted_costs (t : SBoxTable) (ks : RoundKeys) (stages : List Stage) (s : CipherState) :
    Costs (stages.foldlM (stageCounted t ks) s) (runStages t ks s stages) (stagesWork stages) := by
  induction stages generalizing s with
  | nil => exact costs_pure s
  | cons stage rest ih =>
    rw [List.foldlM_cons]
    exact costs_bind (stageCounted_costs t ks s stage) (ih _) rfl

theorem datapathCounted_costs (t : SBoxTable) (ks : RoundKeys) (x : Block) (stages : List Stage) :
    Costs (datapathCounted t ks x stages) (s2b (runStages t ks (b2s x) stages)) (stagesWork stages) :=
  costs_map (foldlM_stageCounted_costs t ks stages (b2s x)) s2b

theorem stagesWork_encStages :
    stagesWork encStages = { lookups := 8, multiplies := 8, nibbleXors := 4, stateXors := 3 } := by decide

theorem stagesWork_decStages :
    stagesWork decStages = { lookups := 8, multiplies := 8, nibbleXors := 4, stateXors := 3 } := by decide

/-! ## The key schedule -/

theorem keystepCounted_costs (t : SBoxTable) (p : CipherState) (rc : Nibble) :
    Costs (keystepCounted t p rc) (keystep t p rc) { lookups := 1, nibbleXors := 5 } := fun _ => rfl

/-- The schedule costs two `KEYSTEP`s (R118). -/
theorem keyexpCounted_costs (t : SBoxTable) (k : Key) :
    Costs (keyexpCounted t k) (keyexp t k) { lookups := 2, nibbleXors := 10 } := by
  have first := keystepCounted_costs t (b2s k) rc1
  have second := keystepCounted_costs t (keystep t (b2s k) rc1) rc2
  unfold keyexpCounted
  exact costs_bind first (costs_map second (RoundKeys.mk (b2s k) (keystep t (b2s k) rc1))) rfl

/-- Settles O40: the work of a datapath is that of its list of transforms, that of the schedule two `KEYSTEP`s'. -/
theorem datapathsDoFixedWork : Obligations.DatapathsDoFixedWork := by
  refine ⟨fun t ks x => ⟨?enc, ?dec⟩, fun t k => run_of_costs (keyexpCounted_costs t k), rfl, rfl, by decide, by decide⟩
  case enc =>
    rw [run_of_costs (datapathCounted_costs t ks x encStages), stagesWork_encStages, encblk]
  case dec =>
    rw [run_of_costs (datapathCounted_costs t ks x decStages), stagesWork_decStages, decblk]

end Sys2Proof.Proofs.FixedWork
end

-- Sequences of blocks (45_cipher_engine.md sections 1 and 3).
section
/-! PROOF. A block command answers from the schedule held and leaves it as it is, so a sequence of them is answered block by
block from one schedule (R132); under one schedule the datapaths undo each other (R128). -/

namespace Sys2Proof.Proofs.Sequences

open Sys2Proof.Machine Sys2Proof.Safety
open Sys2Proof.Proofs.CoreState Sys2Proof.Proofs.Visibility Sys2Proof.Proofs.CipherEngine

/-- `s` at the end of its moves, with the responses in `out` added. -/
def finished (s : State) (out : List ResponseWord) : State :=
  { s with pending := [], responses := s.responses ++ out }

theorem finished_answered (s : State) (rest : List Move) (r : ResponseWord) (out : List ResponseWord) :
    finished (answered { s with pending := rest } r) out = finished s (r :: out) := by
  simp [finished, answered]

section

variable {cmd : Block → Instr} {f : Block → RoundKeys → Block}
  (answers : ∀ b s, exec (cmd b) s = .next (answered s (blockAnswer (f b) (heldSchedule s))))
include answers

/-- The response is a function of the block and of the schedule held, which stays; so each block is answered from the
schedule that the first one meets, by induction on the blocks. -/
theorem run_sequence (bs : List Block) (s : State) (hp : s.pending = bs.map fun b => .drive (encode (cmd b))) :
    Host.Core.run Sys2Proof.core bs.length s =
      .next (finished s (bs.map fun b => blockAnswer (f b) (heldSchedule s))) := by
  induction bs generalizing s with
  | nil =>
    have idle : s.pending = [] := hp
    simp [Host.Core.run, finished, ← idle]
  | cons b rest ih =>
    have first : step s = .next (answered { s with pending := rest.map fun b => .drive (encode (cmd b)) }
        (blockAnswer (f b) (heldSchedule s))) := by
      rw [step_of_drive hp, Encoding.decodeOfEncodeIsTheInstruction, answers]
      rfl
    rw [List.length_cons, Laws.Exec.run_next _ first, ih _ rfl, finished_answered]
    rfl

/-- With a key, a sequence of blocks is answered by the datapath of each, in order (R132). -/
theorem run_sequence_of_keyValid {bs : List Block} {s : State} (h : s.keyValid = true)
    (hp : s.pending = bs.map fun b => .drive (encode (cmd b))) :
    Host.Core.run Sys2Proof.core bs.length s =
      .next (finished s (bs.map fun b => responseWord .ok (f b s.roundKeys))) := by
  rw [run_sequence answers bs s hp, heldSchedule_of_keyValid h]
  rfl

end

theorem expand_encrypt (bs : List Block) : expand (.encrypt bs) = bs.map fun b => .drive (encode (.enc b)) := by
  simp only [expand, Encoding.issue_encWord]

theorem expand_decrypt (bs : List Block) : expand (.decrypt bs) = bs.map fun b => .drive (encode (.dec b)) := by
  simp only [expand, Encoding.issue_decWord]

/-- Settles O58: each list is a sequence of block commands; the answers to the encrypted list are the blocks, as `DECBLK`
undoes `ENCBLK` under one schedule. -/
theorem sequencesAreAnsweredInOrderAndUndone : Obligations.SequencesAreAnsweredInOrderAndUndone := by
  intro s bs h
  have dec {cs : List Block} (hp : s.pending = expand (.decrypt cs)) :=
    run_sequence_of_keyValid exec_dec h (hp.trans (expand_decrypt cs))
  refine ⟨fun hp => run_sequence_of_keyValid exec_enc h (hp.trans (expand_encrypt bs)), dec, fun hp => ?undone⟩
  case undone =>
    have run := dec hp
    simp only [List.length_map, List.map_map, Function.comp_def,
      decblk_encblk SubstitutionTables.bijective_lookup_sboxTable] at run
    exact run

end Sys2Proof.Proofs.Sequences
end

-- The machine of every admissible configuration (00_scope.md section 3, 41_sbox.md section 2, 10_state.md section 4).
section
/-! PROOF. A configuration is admitted exactly when it meets R6, and its machine reads of it the table alone; what each
instruction does with that table is its own equation, and the datapaths undo each other as the table is a bijection. -/

namespace Sys2Proof.Proofs.Configurations

open Sys2Proof.Machine Sys2Proof.Safety
open Sys2Proof.Proofs.Visibility

/-! ## Which configurations make a machine (R6, R81) -/

theorem machineOf_of_wf {raw : Config} (h : raw.wf = true) : machineOf raw = .ok (coreWith ⟨raw, h⟩) := by
  rw [machineOf, Admission.checked_of_wf h]

theorem machineOf_of_not_wf {raw : Config} (h : ¬ raw.wf = true) : ∃ e, machineOf raw = .error e := by
  simp only [machineOf, Config.checked, dif_neg h]
  split_ifs <;> exact ⟨_, rfl⟩

/-- The table of an admissible configuration is a bijection (R81). -/
theorem bijective_lookup_sbox (c : AdmissibleConfig) : Function.Bijective c.sbox.lookup :=
  (Admission.isBijection_iff_bijective_lookup _).1 (Laws.Exec.sbox_isBijection c)

/-! ## What is read of a configuration -/

/-- An instruction reads of its configuration nothing but the table (R166, R183). -/
theorem execWith_eq_of_sbox_eq {c c' : AdmissibleConfig} (h : c.sbox = c'.sbox) (i : Instr) (s : State) :
    execWith c i s = execWith c' i s := by
  obtain ⟨⟨table, _, _⟩, _⟩ := c
  obtain ⟨⟨table', _, _⟩, _⟩ := c'
  obtain rfl : table = table' := h
  cases i <;> rfl

theorem stepWith_eq_of_sbox_eq {c c' : AdmissibleConfig} (h : c.sbox = c'.sbox) : stepWith c = stepWith c' := by
  have same : execWith c = execWith c' := funext fun i => funext fun s => execWith_eq_of_sbox_eq h i s
  funext s
  rw [stepWith, same, stepWith]

/-- An instruction that does not read the table is the same in every configuration. -/
theorem execWith_eq_exec (c : AdmissibleConfig) (i : Instr) (s : State) (h : readsTheTable i = false) :
    execWith c i s = exec i s := by
  cases i
  case reserved | gfadd | gfmul | b2s | s2b | shrow | mixcol | keyadd => rfl
  all_goals cases h

/-! ## The commands in any configuration -/

theorem execWith_enc (c : AdmissibleConfig) (x : Block) (s : State) :
    execWith c (.enc x) s = .next (answered s (blockAnswer (encblk c.sbox x) (heldSchedule s))) := by
  rw [← answerBlock_eq]
  exact (apply_ite Host.Outcome.next _ _ _).symm

theorem execWith_dec (c : AdmissibleConfig) (x : Block) (s : State) :
    execWith c (.dec x) s = .next (answered s (blockAnswer (decblk c.sbox x) (heldSchedule s))) := by
  rw [← answerBlock_eq]
  exact (apply_ite Host.Outcome.next _ _ _).symm

theorem execWith_of_no_key (c : AdmissibleConfig) (x : Block) {s : State} (h : s.keyValid = false) :
    execWith c (.enc x) s = .next (answered s (responseWord .noKey 0x0000#16)) ∧
      execWith c (.dec x) s = .next (answered s (responseWord .noKey 0x0000#16)) := by
  rw [execWith_enc, execWith_dec, CipherEngine.heldSchedule_of_no_key h]
  exact ⟨rfl, rfl⟩

theorem execWith_of_keyValid (c : AdmissibleConfig) (x : Block) {s : State} (h : s.keyValid = true) :
    execWith c (.enc x) s = .next (answered s (responseWord .ok (encblk c.sbox x s.roundKeys))) ∧
      execWith c (.dec x) s = .next (answered s (responseWord .ok (decblk c.sbox x s.roundKeys))) := by
  rw [execWith_enc, execWith_dec, CipherEngine.heldSchedule_of_keyValid h]
  exact ⟨rfl, rfl⟩

/-! ## One step in any configuration (R186) -/

theorem stepWith_of_drive (c : AdmissibleConfig) {s : State} {w : BusWord} {rest : List Move}
    (h : s.pending = .drive w :: rest) : stepWith c s = execWith c (decode w) { s with pending := rest } := by
  simp only [stepWith, stepBy, State.takeMove, h]

theorem stepWith_of_reset (c : AdmissibleConfig) {s : State} {rest : List Move} (h : s.pending = .reset :: rest) :
    stepWith c s = .next ({ s with pending := rest }).applyReset := by
  simp only [stepWith, stepBy, State.takeMove, h]

theorem stepWith_of_idle (c : AdmissibleConfig) {s : State} (h : s.pending = []) : stepWith c s = .next s := by
  simp only [stepWith, stepBy, State.takeMove, h]

/-- Settles O60: admission is R6, the step and each instruction have one equation for all configurations, and the
datapaths undo each other for every bijective table. -/
theorem everyAdmissibleTableMakesAMachine : Obligations.EveryAdmissibleTableMakesAMachine := by
  refine ⟨fun raw bij lanes => ?admitted, fun raw refused => ?refused, Laws.Exec.exec_eq_execWith,
    Laws.Exec.step_eq_stepWith, Laws.Exec.core_eq_coreWith,
    fun c s => ⟨fun _ _ => stepWith_of_drive c, fun _ => stepWith_of_reset c, stepWith_of_idle c⟩,
    fun c => ⟨rfl, rfl⟩, execWith_eq_exec, fun c s => ?effects, fun c c' => stepWith_eq_of_sbox_eq⟩
  case admitted =>
    have h := (Admission.wf_iff raw).2 ⟨bij, lanes⟩
    exact ⟨⟨raw, h⟩, Admission.checked_of_wf h, rfl, machineOf_of_wf h⟩
  case refused => exact machineOf_of_not_wf (mt (Admission.wf_iff raw).1 refused)
  case effects =>
    have bij := bijective_lookup_sbox c
    have undone (x : Block) := And.intro (CipherEngine.decblk_encblk bij s.roundKeys x)
      (CipherEngine.encblk_decblk bij s.roundKeys x)
    exact ⟨fun _ => rfl, fun _ => rfl, fun _ => rfl, fun _ => rfl, fun _ _ => rfl, fun _ => rfl, fun _ _ _ _ => rfl,
      fun _ _ _ _ => rfl, fun _ => rfl, fun x => execWith_of_no_key c x,
      fun x h =>
        have ⟨enc, dec⟩ := execWith_of_keyValid c x h
        ⟨enc, dec, undone x⟩⟩

end Sys2Proof.Proofs.Configurations
end
